-- ==== Sys2Proof/Word.lean ====
section
/-! DEFINITION. The widths of RLB: every value is an unsigned bit vector of a stated width (00_scope.md R11). -/

namespace Sys2Proof

/-- A byte: registers `SEQ`, `OPTIONS`, `EV`, every entry of a byte space (R21 to R23, R60). -/
abbrev Byte := BitVec 8

/-- Sixteen bits: `CFG.SENDER_ID`, `RETRY_COUNT`, `SENSOR`, `LEN` (R9, R24, R154, R158). -/
abbrev Half := BitVec 16

/-- Thirty-two bits: intervals and counts (`IVL_W`, R10, R25, R30). -/
abbrev Word := BitVec 32

end Sys2Proof
end

