-- ==== Sys2Proof/Config.lean ====
section
/-! DEFINITION. The configuration record latched at reset (00_scope.md R9, R10; 10_state.md R32) and the free values of
the environment's draws (44_sequencer.md R154, R155). -/

namespace Sys2Proof

/-- The configuration record `CFG` (R32; passed in as one immutable record, 60_exceptions.md R199).
The defaults are R9's and R10's. `senderId` has no value in the spec ("free"): the default is the document's example value,
DESIGN CHOICE, log 11 (unsafe for a claim about `State.reset` alone). `poly` is the spec's general-knowledge value (log 12). -/
structure Cfg where
  senderId : Half := 0xEFE6
  baseTel  : Word := 10
  baseAck  : Word := 60
  ackWait  : Word := 5
  poly     : Byte := 0x07
  /-- `CFG.TABLE` (R10, R111): `none`, the table generated from `poly` by R112; `some v`, a table taken as given. -/
  table    : Option (Vector Byte 256) := none
  retryMax : Half := 65535
  seqInit  : Byte := 0
deriving DecidableEq, Repr

/-- `SENSOR` at a frame build for which the environment has listed no answer: any 16-bit value, under no law (R154, 93 V1).
A free value: nothing in Lean can say what it is (log 8, safe). -/
opaque Config.sensorDraw : Nat → Half

/-- The send result `ok` at a frame build for which the environment has listed no answer: either value (R155, 93 V2).
A free value (log 8, safe). -/
opaque Config.sendResult : Nat → Bool

end Sys2Proof
end

