-- ==== Sys2Proof/Syntax.lean ====
section
/-! DEFINITION. The sixteen operations of RLB (30_encoding.md R87), one constructor for each row of the operation table,
with the operands that travel on `ARG` and `OPD` (R85, R86). -/

namespace Sys2Proof

/-- The three timers (30_encoding.md R88). -/
inductive TimerId where
  | tel | ackreq | ackwait
deriving DecidableEq, Repr

/-- The seven event sources (10_state.md R23, 42_event_accumulator.md R131); source 7 does not exist (R89, R94). -/
inductive Source where
  | switchA | switchB | padUp | padDown | padLeft | padRight | fire
deriving DecidableEq, Repr

/-- The operations of R87, issued by name with their operands. -/
inductive Instr where
  /-- `LUTGEN` (R112). -/
  | lutgen
  /-- `CRC8` (R113): `msg` is `MSG`, any length. -/
  | crc8 (msg : List Byte)
  /-- `ENCT` (R120). -/
  | enct (senderId : Half) (sequence options : Byte) (reading : Half) (events : Byte)
  /-- `DECA` (R121). -/
  | deca (b0 b1 b2 : Byte)
  /-- `MATCH` (R122). -/
  | matchInbox
  /-- `REC s` (R132). -/
  | recEvent (s : Source)
  /-- `DRAIN` (R133). -/
  | drain
  /-- `ARM t, I` (R141). -/
  | arm (t : TimerId) (interval : Word)
  /-- `DISARM t` (R142). -/
  | disarm (t : TimerId)
  /-- `REARM t, I` (R143). -/
  | rearm (t : TimerId) (interval : Word)
  /-- `TICK` (R144). -/
  | tick
  /-- `RXD LEN, d0, d1, d2` (R158). -/
  | rxd (len : Half) (d0 d1 d2 : Byte)
  /-- `SVCTEL` (R155). -/
  | svctel
  /-- `SVCREQ` (R157). -/
  | svcreq
  /-- `SVCWAIT` (R166). -/
  | svcwait
  /-- `POLL` (R151). -/
  | poll
deriving DecidableEq, Repr

end Sys2Proof
end

