-- ==== Sys2Proof/Decode.lean ====
section
/-! DEFINITION. The operation word and the operand bus (30_encoding.md R85 to R92): decoding, total on every word, and the
encoder written from the same table. -/

namespace Sys2Proof

/-- One operation as it is presented on the operation port (R85, R86, R197): the 8-bit operation word `OPW`, the operand bus
`OPD` and the streamed byte sequence `MSG` of `CRC8`. `OPD` is 56 lines, the width of its widest operand (`ENCT`); a narrower
operand stands on the low lines (DESIGN CHOICE, log 5). -/
structure Issue where
  opw : Byte
  opd : BitVec 56 := 0
  msg : List Byte := []
deriving DecidableEq, Repr

/-- Why a word decodes to nothing. -/
inductive DecodeError where
  /-- The word names no operation (R92); the machine refuses it. -/
  | reservedWord (opw : Byte)
deriving DecidableEq, Repr

/-! ## Fields of the operation word (R85) -/

/-- `OPC = OPW[7:4]`. -/
def opcOf (w : Byte) : BitVec 4 := w.extractLsb' 4 4

/-- `ARG = OPW[3:0]`. -/
def argOf (w : Byte) : BitVec 4 := w.extractLsb' 0 4

/-- `{OPC, ARG}`. -/
def opwOf (opc arg : BitVec 4) : Byte := opc ++ arg

/-- Timer ids (R88): `TEL` = 0, `ACKREQ` = 1, `ACKWAIT` = 2. -/
def TimerId.code : TimerId → BitVec 4
  | .tel => 0
  | .ackreq => 1
  | .ackwait => 2

/-- The timer an `ARG` names; `ARG[3:2]` must be 00 and 3 is reserved (R88). -/
def timerOfArg (arg : BitVec 4) : Option TimerId :=
  match arg.toNat with
  | 0 => some .tel
  | 1 => some .ackreq
  | 2 => some .ackwait
  | _ => none

/-- Source ids are the event bit positions 0 to 6 (R84, R89). -/
def Source.code : Source → BitVec 4
  | .switchA => 0
  | .switchB => 1
  | .padUp => 2
  | .padDown => 3
  | .padLeft => 4
  | .padRight => 5
  | .fire => 6

/-- The source an `ARG` names; 7 is reserved and `ARG[3]` must be 0 (R89). -/
def sourceOfArg (arg : BitVec 4) : Option Source :=
  match arg.toNat with
  | 0 => some .switchA
  | 1 => some .switchB
  | 2 => some .padUp
  | 3 => some .padDown
  | 4 => some .padLeft
  | 5 => some .padRight
  | 6 => some .fire
  | _ => none

/-! ## Fields of the operand bus (R86) -/

/-- `ENCT`'s 56 bits `{senderId, sequence, options, reading, events}`. -/
def opdEnct (senderId : Half) (sequence options : Byte) (reading : Half) (events : Byte) : BitVec 56 :=
  senderId ++ sequence ++ options ++ reading ++ events

/-- `DECA`'s 24 bits `{b0, b1, b2}`, byte 0 in the high bits. -/
def opdDeca (b0 b1 b2 : Byte) : BitVec 56 := (0 : BitVec 32) ++ (b0 ++ b1 ++ b2)

/-- `ARM`/`REARM`'s 32 bits: the interval. -/
def opdInterval (interval : Word) : BitVec 56 := (0 : BitVec 24) ++ interval

/-- `RXD`'s 16-bit `LEN` and `{d0, d1, d2}`, as `{LEN, d0, d1, d2}` (DESIGN CHOICE, log 5). -/
def opdRxd (len : Half) (d0 d1 d2 : Byte) : BitVec 56 := (0 : BitVec 16) ++ (len ++ d0 ++ d1 ++ d2)

/-! ## Decoding (R87, R92) -/

/-- An operation whose `ARG` must be the given value. -/
def exactArg (w : Byte) (arg : BitVec 4) (i : Instr) : Except DecodeError Instr :=
  if argOf w = arg then .ok i else .error (.reservedWord w)

/-- An operation whose `ARG` is a timer id. -/
def timerArg (w : Byte) (f : TimerId → Instr) : Except DecodeError Instr :=
  match timerOfArg (argOf w) with
  | some t => .ok (f t)
  | none => .error (.reservedWord w)

/-- An operation whose `ARG` is a source id. -/
def sourceArg (w : Byte) (f : Source → Instr) : Except DecodeError Instr :=
  match sourceOfArg (argOf w) with
  | some s => .ok (f s)
  | none => .error (.reservedWord w)

/-- The service an `ARG` of `OPC` 0xD names (R87). -/
def serviceArg (w : Byte) : Except DecodeError Instr :=
  match (argOf w).toNat with
  | 0 => .ok .svctel
  | 1 => .ok .svcreq
  | 2 => .ok .svcwait
  | _ => .error (.reservedWord w)

/-- The operation map of R87; every other word is reserved (R92). Lines of `OPD` and of the stream that the operation does
not use are not looked at (log 6). -/
def decode (x : Issue) : Except DecodeError Instr :=
  match (opcOf x.opw).toNat with
  | 0x1 => exactArg x.opw 0 .lutgen
  | 0x2 => exactArg x.opw 0 (.crc8 x.msg)
  | 0x3 => exactArg x.opw 0 (.enct (x.opd.extractLsb' 40 16) (x.opd.extractLsb' 32 8) (x.opd.extractLsb' 24 8)
      (x.opd.extractLsb' 8 16) (x.opd.extractLsb' 0 8))
  | 0x4 => exactArg x.opw 0 (.deca (x.opd.extractLsb' 16 8) (x.opd.extractLsb' 8 8) (x.opd.extractLsb' 0 8))
  | 0x5 => exactArg x.opw 0 .matchInbox
  | 0x6 => sourceArg x.opw .recEvent
  | 0x7 => exactArg x.opw 0 .drain
  | 0x8 => timerArg x.opw (fun t => .arm t (x.opd.extractLsb' 0 32))
  | 0x9 => timerArg x.opw .disarm
  | 0xA => timerArg x.opw (fun t => .rearm t (x.opd.extractLsb' 0 32))
  | 0xB => exactArg x.opw 0 .tick
  | 0xC => exactArg x.opw 0 (.rxd (x.opd.extractLsb' 24 16) (x.opd.extractLsb' 16 8) (x.opd.extractLsb' 8 8)
      (x.opd.extractLsb' 0 8))
  | 0xD => serviceArg x.opw
  | 0xE => exactArg x.opw 0 .poll
  | _ => .error (.reservedWord x.opw)

/-! ## Encoding (R86, R87) -/

/-- The operation word of an operation (R87, "Full words"). -/
def encodeWord : Instr → Byte
  | .lutgen => opwOf 0x1 0
  | .crc8 _ => opwOf 0x2 0
  | .enct _ _ _ _ _ => opwOf 0x3 0
  | .deca _ _ _ => opwOf 0x4 0
  | .matchInbox => opwOf 0x5 0
  | .recEvent s => opwOf 0x6 s.code
  | .drain => opwOf 0x7 0
  | .arm t _ => opwOf 0x8 t.code
  | .disarm t => opwOf 0x9 t.code
  | .rearm t _ => opwOf 0xA t.code
  | .tick => opwOf 0xB 0
  | .rxd _ _ _ _ => opwOf 0xC 0
  | .svctel => opwOf 0xD 0
  | .svcreq => opwOf 0xD 1
  | .svcwait => opwOf 0xD 2
  | .poll => opwOf 0xE 0

/-- What an operation puts on `OPD` (R86); operations with no operand there leave it 0. -/
def encodeOpd : Instr → BitVec 56
  | .enct senderId sequence options reading events => opdEnct senderId sequence options reading events
  | .deca b0 b1 b2 => opdDeca b0 b1 b2
  | .arm _ interval => opdInterval interval
  | .rearm _ interval => opdInterval interval
  | .rxd len d0 d1 d2 => opdRxd len d0 d1 d2
  | .lutgen | .crc8 _ | .matchInbox | .recEvent _ | .drain | .disarm _ | .tick | .svctel | .svcreq | .svcwait | .poll => 0

/-- What an operation streams as `MSG` (R86). -/
def encodeMsg : Instr → List Byte
  | .crc8 msg => msg
  | .lutgen | .enct _ _ _ _ _ | .deca _ _ _ | .matchInbox | .recEvent _ | .drain | .arm _ _ | .disarm _ | .rearm _ _
  | .tick | .rxd _ _ _ _ | .svctel | .svcreq | .svcwait | .poll => []

/-- The operation as it is presented on the port. -/
def encode (i : Instr) : Issue := { opw := encodeWord i, opd := encodeOpd i, msg := encodeMsg i }

/-! ## The table's numbering -/

/-- An operation of the table presented alone: the table numbers the one 8-bit word of a row (30_encoding.md R85, R96); every bit
above the row's `nbits` is 0, and so are `OPD` and the stream beside the word (log 9). -/
def tableIssue (nbits w : Nat) : Issue := { opw := BitVec.ofNat 8 (w % 2 ^ nbits) }

/-- What the decoder reads from a table word. -/
def decodeTableWord (nbits w : Nat) : Option Instr :=
  match decode (tableIssue nbits w) with
  | .ok i => some i
  | .error _ => none

end Sys2Proof
end

