-- ==== Sys2Proof/Machine/Memory.lean ====
section
/-! DEFINITION. A byte space (20_memory.md R60): a list of cells in one canonical form, read and written one byte at a time
(00_scope.md R13, 20_memory.md R63). -/

namespace Sys2Proof.Machine

/-- The contents of one byte space: the cells that differ from `blankByte`, by rising index. -/
abbrev Memory := List Host.Cell

/-- What an unlisted index reads as: the reset contents of `INBOX` and `TXBUF` (10_state.md R40: 0x00). `LUT` is written
whole at reset, so its unlisted entries are the ones whose value is 0x00 (log 15). -/
def blankByte : Byte := 0x00

/-- `MemRead(S, a, 1)` on the space's contents (R13). -/
def Memory.read : Memory → Nat → Byte
  | [], _ => blankByte
  | (a, v) :: m, x => if a = x then v else Memory.read m x

/-- A cell in front of `m`, unless its value is the one an unlisted index reads as. -/
def Memory.cons (x : Nat) (v : Byte) (m : Memory) : Memory := if v = blankByte then m else (x, v) :: m

/-- `MemWrite(S, a, 1, v)` on the space's contents (R13); the canonical form is kept. -/
def Memory.write : Memory → Nat → Byte → Memory
  | [], x, v => Memory.cons x v []
  | (a, w) :: m, x, v =>
    if x < a then Memory.cons x v ((a, w) :: m)
    else if x = a then Memory.cons x v m
    else (a, w) :: Memory.write m x v

/-- The bytes of `vs` at the indexes `x`, `x + 1`, …, each written once in rising order (R77). -/
def Memory.writeList (m : Memory) (x : Nat) : List Byte → Memory
  | [] => m
  | v :: vs => Memory.writeList (m.write x v) (x + 1) vs

/-- The canonical form: indexes strictly rising and no entry equal to what an unlisted index reads as. -/
abbrev Memory.wf (m : Memory) : Prop :=
  m.Pairwise (fun c d => c.1 < d.1) ∧ ∀ c ∈ m, c.2 ≠ blankByte

/-- Every listed index lies in a space of `size` bytes (20_memory.md R60: no other index can be formed). -/
abbrev Memory.within (size : Nat) (m : Memory) : Prop := ∀ c ∈ m, c.1 < size

end Sys2Proof.Machine
end

