-- ==== Sys2Proof/Machine/Lut.lean ====
section
/-! DEFINITION. The lookup table's generator and the checksum fold (40_checksum.md R111 to R113), as functions on bytes and
on the contents of the space `LUT`. -/

namespace Sys2Proof.Machine

/-- One of the eight steps of R112 on the 8-bit value `r`. -/
def genStep (poly r : Byte) : Byte := if r.getLsbD 7 then (r <<< 1) ^^^ poly else r <<< 1

/-- `n` steps of R112. -/
def genSteps (poly : Byte) : Nat → Byte → Byte
  | 0, r => r
  | n + 1, r => genSteps poly n (genStep poly r)

/-- The generated table entry at index `i`: eight steps from `i` (R112). -/
def genEntry (poly i : Byte) : Byte := genSteps poly 8 i

/-- `CFG.TABLE[i]` (R10, R111): the table given by the record, or the one generated from `CFG.POLY`. -/
def tableEntry (c : Cfg) (i : Byte) : Byte :=
  match c.table with
  | some v => v.get i.toFin
  | none => genEntry c.poly i

/-- `LUTGEN`'s writes to `LUT`: index 0 to 255, each once (R77, R112). -/
def fillLut (c : Cfg) (m : Memory) : Memory :=
  m.writeList 0 ((List.range 256).map (fun i => tableEntry c (BitVec.ofNat 8 i)))

/-- One step of the checksum fold: `ACC <- LUT[ACC ^ b]` (R113). -/
def crcStep (lut : Memory) (acc b : Byte) : Byte := lut.read (acc ^^^ b).toNat

/-- `CRC8` of a byte sequence: the accumulator starts at 0 and lives in this fold only (10_state.md R37, R113). -/
def crc8 (lut : Memory) (msg : List Byte) : Byte := msg.foldl (crcStep lut) 0

end Sys2Proof.Machine
end

