-- ==== Sys2Proof/WellFormed.lean ====
section
/-! DEFINITION. What an operation's operands and a configuration record must satisfy. Timer and source ids outside R88, R89
cannot be written (they are inductive types); what is left to check is the interval of `ARM`/`REARM` (R141, R143: "at least
1") and the constraints of R10 on the configuration. -/

namespace Sys2Proof

/-- The operand constraints of the operation table: the interval of `ARM` and `REARM` is not 0 (R141, R143). The machine
itself refuses such an operation too, by name. -/
def Instr.wellFormed : Instr → Bool
  | .arm _ interval => interval != 0
  | .rearm _ interval => interval != 0
  | .lutgen | .crc8 _ | .enct _ _ _ _ _ | .deca _ _ _ | .matchInbox | .recEvent _ | .drain | .disarm _ | .tick
  | .rxd _ _ _ _ | .svctel | .svcreq | .svcwait | .poll => true

/-- The constraint of R10: the three base constants are each at least 1 and
`CFG.BASE_ACK * (CFG.RETRY_MAX + 1) < 2^32`, so that no interval is 0 and none overflows. -/
def Cfg.valid (c : Cfg) : Bool :=
  c.baseTel != 0 && c.baseAck != 0 && c.ackWait != 0
    && decide (c.baseAck.toNat * (c.retryMax.toNat + 1) < 2 ^ 32)

end Sys2Proof
end

