-- ==== Sys2Proof/Machine/State.lean ====
section
/-! DEFINITION. The state of RLB (10_state.md R20) and its value after reset (R40, 70_reset_and_hazards.md R211). RLB has no
program counter and no fetch (R27); what the environment presents to the block and sees of it is held in `State.env`, which is
the model's, not the spec's. -/

namespace Sys2Proof.Machine

/-- The registers of one timer (10_state.md R28, R30). `T[t].MODE` is hardwired (R31) and is `timerMode`. -/
structure Timer where
  armed    : Bool
  interval : Word
  count    : Word
  flag     : Bool
deriving DecidableEq, Repr

/-- A telemetry frame, with the field names of the wire table (30_encoding.md R81), byte 0 first. -/
structure Frame where
  senderIdHi : Byte
  senderIdLo : Byte
  sequence   : Byte
  options    : Byte
  readingHi  : Byte
  readingLo  : Byte
  events     : Byte
  checksum   : Byte
deriving DecidableEq, Repr

/-- An acknowledgement frame (30_encoding.md R82). -/
structure AckFrame where
  peerByte0 : Byte
  peerByte1 : Byte
  peerByte2 : Byte
deriving DecidableEq, Repr

/-- The status notices (30_encoding.md R99). -/
inductive StatusCode where
  | acked | retrying | txfail
deriving DecidableEq, Repr

/-- What the block emits (00_scope.md R14): a frame on the transmit port, or a notice to the status sink. -/
inductive Output where
  | tx (f : Frame)
  | status (code : StatusCode) (arg : Half)
deriving DecidableEq, Repr

/-- What the result bus `RES` carries after an operation (30_encoding.md R86). -/
inductive Res where
  | none
  | checksum (v : Byte)
  | frame (f : Frame)
  | ack (a : AckFrame)
  | matched (b : Bool)
  | events (e : Byte)
deriving DecidableEq, Repr

/-- The environment's answer to one frame build: the sensor reading and the send result (44_sequencer.md R154, R155). -/
structure Draw where
  sensor : Half
  ok     : Bool
deriving DecidableEq, Repr

/-- What the environment presents to the block (60_exceptions.md R196): an operation on the operation port, or a reset with
the configuration record to latch. -/
inductive Input where
  | operation (x : Issue)
  | reset (c : Cfg)
deriving DecidableEq, Repr

/-- The environment's side of the block: the model's own fields (INVENTORY.md '## State'). -/
structure Env where
  /-- What is presented, in the order of the interleaving (20_memory.md R66, 30_encoding.md R97; log 1). -/
  pending   : List Input
  /-- The answers to the coming frame builds, first one first (log 8). -/
  draws     : List Draw
  /-- The counter the free draws are applied to when `draws` is empty (log 8). -/
  drawCount : Nat
  /-- The result bus after the last operation (log 7). -/
  res       : Res
  /-- The frames and notices emitted so far, oldest first; nothing in the block reads them (R186; log 10). -/
  emitted   : List Output
deriving DecidableEq, Repr

/-- The whole state of RLB (10_state.md R20), and the environment beside it. -/
structure State where
  /-- The configuration constants, latched at reset (R32). -/
  cfg         : Cfg
  /-- `SEQ` (R21). -/
  seq         : Byte
  /-- `OPTIONS` (R22); read and written through `State.readOptions`, `State.writeOptions`. -/
  options     : Byte
  /-- `EV` (R23); read and written through `State.readEv`, `State.writeEv`. -/
  ev          : Byte
  /-- `RETRY_COUNT` (R24). -/
  retryCount  : Half
  /-- `ACK_INTERVAL` (R25). -/
  ackInterval : Word
  /-- `PKT_INTERVAL` (R25). -/
  pktInterval : Word
  /-- `T[TEL]` (R30). -/
  tel         : Timer
  /-- `T[ACKREQ]` (R30). -/
  ackreq      : Timer
  /-- `T[ACKWAIT]` (R30). -/
  ackwait     : Timer
  /-- `INBOX[0..2]` (R34). -/
  inbox       : Memory
  /-- `INBOX_VALID` (R29). -/
  inboxValid  : Bool
  /-- `LUT[0..255]` (R33). -/
  lut         : Memory
  /-- `TXBUF[0..7]` (R35). -/
  txbuf       : Memory
  env         : Env
deriving DecidableEq, Repr

/-- RLB has no fault: "RLB raises no synchronous exception and has no trap mechanism" (60_exceptions.md R180), "No case maps
to `fault`" (93_implementation_defined.md). The type is empty, so no operation can raise one. -/
inductive Fault where
deriving DecidableEq, Repr

/-- The spec's `refuse` (00_scope.md R14): the operation has no meaning and changes no state. Each is safe: the block goes on
where the model stops, so nothing false can be proved of a run through one (log 20). -/
inductive Refusal where
  /-- An operation that has no meaning in the model yet: raised by `exec`'s arms only (none is left). -/
  | notModelled (mnemonic : String)
  /-- A reserved operation word (R92): raised by `step`. -/
  | reservedWord (opw : Byte)
  /-- `ARM` or `REARM` with interval 0 (R141, R143): raised by those, and by the services that perform them if the
  configuration breaks R10. -/
  | intervalZero (t : TimerId)
  /-- A service issued with its flag clear (R155, R157, R166): raised by `SVCTEL`, `SVCREQ`, `SVCWAIT`. -/
  | flagClear (t : TimerId)
  /-- A reset with a configuration record that breaks R10 (93 X7): raised by `step` at a reset. -/
  | invalidConfiguration
deriving DecidableEq, Repr

/-- The environment at the start: nothing presented, no answer listed, nothing emitted (R212: nothing is sent at reset). -/
def Env.initial : Env := { pending := [], draws := [], drawCount := 0, res := .none, emitted := [] }

/-- The state after reset with the configuration record `c` and the environment `e` (R40, R211). -/
def State.resetIn (c : Cfg) (e : Env) : State where
  cfg         := c
  seq         := c.seqInit
  options     := 0x02
  ev          := 0x00
  retryCount  := 0
  ackInterval := c.baseAck
  pktInterval := c.baseTel
  tel         := { armed := true, interval := c.baseTel, count := c.baseTel, flag := false }
  ackreq      := { armed := true, interval := c.baseAck, count := c.baseAck, flag := false }
  ackwait     := { armed := false, interval := c.ackWait, count := 0, flag := false }
  inbox       := []
  inboxValid  := false
  lut         := fillLut c []
  txbuf       := []
  env         := e

/-- The state after reset with the configuration record `c` (R199: "passed into the core at construction"). -/
def State.resetWith (c : Cfg) : State := State.resetIn c Env.initial

/-- The machine right after reset with the default configuration record (R9, R10, R40). -/
def State.reset : State := State.resetWith {}

end Sys2Proof.Machine
end

