-- ==== Sys2Proof/Machine/Operands.lean ====
section
/-! DEFINITION. Operand forms: byte halves and their order (20_memory.md R61, R62; 30_encoding.md R81, R82, R90), the event
byte's bits (R84), the hardwired timer modes (10_state.md R31), the notices' codes (R99). -/

namespace Sys2Proof.Machine

/-- `v[15:8]`, the byte sent first (R61). -/
def hiByte (v : Half) : Byte := v.extractLsb' 8 8

/-- `v[7:0]`, the byte sent second (R61). -/
def loByte (v : Half) : Byte := v.extractLsb' 0 8

/-- A reader's `{byte_hi, byte_lo}` (R90 (a)). -/
def joinBytes (hi lo : Byte) : Half := hi ++ lo

/-- `1 << s` on 8 bits: the event bit of a source (10_state.md R23, R132). -/
def sourceMask (s : Source) : Byte := (1 : Byte) <<< s.code.toNat

/-- The two timer shapes (43_scheduler.md R140). -/
inductive Mode where
  | periodic | oneShot
deriving DecidableEq, Repr

/-- `T[t].MODE`, hardwired (10_state.md R31). -/
def timerMode : TimerId → Mode
  | .tel => .periodic
  | .ackreq => .periodic
  | .ackwait => .oneShot

/-- The three timers in the order of their ids (R88). -/
def allTimers : List TimerId := [.tel, .ackreq, .ackwait]

/-- The 8-bit code of a notice (R99). -/
def statusByte : StatusCode → Byte
  | .acked => 1
  | .retrying => 2
  | .txfail => 3

/-- The frame's eight bytes in wire order (R81). -/
def frameBytes (f : Frame) : List Byte :=
  [f.senderIdHi, f.senderIdLo, f.sequence, f.options, f.readingHi, f.readingLo, f.events, f.checksum]

/-- The frame as the 64-bit word `F`, byte k at `F[63-8k : 56-8k]` (R81). -/
def frameWord (f : Frame) : BitVec 64 :=
  f.senderIdHi ++ f.senderIdLo ++ f.sequence ++ f.options ++ f.readingHi ++ f.readingLo ++ f.events ++ f.checksum

/-- The acknowledgement frame as the 24-bit word `A`, byte k at `A[23-8k : 16-8k]` (R82). -/
def ackWord (a : AckFrame) : BitVec 24 := a.peerByte0 ++ a.peerByte1 ++ a.peerByte2

/-- The value of the options byte with its hardwired bits: bit 1 reads 1, bits 7:3 read 0, bits 0 and 2 as given
(10_state.md R22). -/
def hardwireOptions (v : Byte) : Byte := (v &&& 0x05) ||| 0x02

/-- The value of the events byte with bit 7 hardwired 0 (10_state.md R23). -/
def hardwireEv (v : Byte) : Byte := v &&& 0x7F

/-- `OPTIONS.ACKRQ`, `OPTIONS.RETRY` (R83). -/
def optAckrq : Byte := 0x01
def optRetry : Byte := 0x04

end Sys2Proof.Machine
end

