-- ==== Sys2Proof/Machine/Flags.lean ====
section
/-! DEFINITION. The flags of RLB: the three timer flags (10_state.md R28), how an expiry sets one and a service clears it, the
service priority (44_sequencer.md R152) and the hold of `TICK` (R153). RLB has no condition codes (R29). -/

namespace Sys2Proof.Machine

/-- The registers of timer `t` (R12: `T[t]`). -/
def State.timer (s : State) : TimerId → Timer
  | .tel => s.tel
  | .ackreq => s.ackreq
  | .ackwait => s.ackwait

/-- Write the registers of timer `t`. -/
def State.setTimer (s : State) (t : TimerId) (v : Timer) : State :=
  match t with
  | .tel => { s with tel := v }
  | .ackreq => { s with ackreq := v }
  | .ackwait => { s with ackwait := v }

/-- `T[t].FLAG`. -/
def State.flag (s : State) (t : TimerId) : Bool := (s.timer t).flag

/-- `T[t].FLAG <- 0`: the head of each service (R28, R155, R157, R166). -/
def State.clearFlag (s : State) (t : TimerId) : State := s.setTimer t { s.timer t with flag := false }

/-- Some timer flag is pending. -/
def State.anyFlag (s : State) : Bool := s.ackwait.flag || s.ackreq.flag || s.tel.flag

/-- The timer whose flag is serviced next: `ACKWAIT`, then `ACKREQ`, then `TEL` (R152, 60_exceptions.md R185 (a)). -/
def State.nextService (s : State) : Option TimerId :=
  if s.ackwait.flag then some .ackwait
  else if s.ackreq.flag then some .ackreq
  else if s.tel.flag then some .tel
  else none

/-- `TICK` is enabled only when all three timer flags are 0 (R153). -/
def State.tickEnabled (s : State) : Bool := !s.anyFlag

end Sys2Proof.Machine
end

