-- ==== Sys2Proof/Machine/Ops.lean ====
section
/-! DEFINITION. The named operations over the byte spaces, the registers with hardwired bits, the timers and the environment's
side of the block; the instructions' meanings are written over these. RLB takes no exception and returns from none
(60_exceptions.md R180, R187, R188), so there is no such operation here. -/

namespace Sys2Proof.Machine

/-- The answer of an operation. -/
abbrev Answer := Host.Outcome State Fault Refusal

/-- One operation after another inside one atomic step; a refusal of the first is the whole's. -/
def andThen (o : Answer) (f : State → Answer) : Answer :=
  match o with
  | .next s => f s
  | .fault e => .fault e
  | .refused r => .refused r

/-! ## Byte spaces (00_scope.md R13, 20_memory.md R60, R77) -/

/-- The byte spaces that are state; `MSG` is an operand (10_state.md R36). -/
inductive Space where
  | lut | inbox | txbuf
deriving DecidableEq, Repr

/-- The size of a space (R60). -/
def Space.size : Space → Nat
  | .lut => 256
  | .inbox => 3
  | .txbuf => 8

/-- The contents of a space. -/
def State.space (s : State) : Space → Memory
  | .lut => s.lut
  | .inbox => s.inbox
  | .txbuf => s.txbuf

/-- `MemRead(S, a, 1)` (R13). -/
def memRead (s : State) (S : Space) (a : Nat) : Byte := (s.space S).read a

/-- `MemWrite(S, a + k, 1, vs[k])` for each byte of `vs`, in rising order, in one atomic step (R13, R77). -/
def memWriteList (s : State) (S : Space) (a : Nat) (vs : List Byte) : State :=
  match S with
  | .lut => { s with lut := s.lut.writeList a vs }
  | .inbox => { s with inbox := s.inbox.writeList a vs }
  | .txbuf => { s with txbuf := s.txbuf.writeList a vs }

/-! ## Registers with hardwired bits (10_state.md R22, R23) -/

/-- Read `OPTIONS`: bit 1 reads 1 and bits 7:3 read 0. -/
def State.readOptions (s : State) : Byte := hardwireOptions s.options

/-- `OPTIONS <- v`; writes of the hardwired bits are ignored. -/
def State.writeOptions (s : State) (v : Byte) : State := { s with options := hardwireOptions v }

/-- Read `EV`: bit 7 reads 0. -/
def State.readEv (s : State) : Byte := hardwireEv s.ev

/-- `EV <- v`; a write of bit 7 is ignored. -/
def State.writeEv (s : State) (v : Byte) : State := { s with ev := hardwireEv v }

/-! ## Timers (43_scheduler.md R141 to R144) -/

/-- `ARM`'s three writes; the flag keeps its value (R28, R141). -/
def Timer.load (T : Timer) (interval : Word) : Timer := { T with armed := true, interval := interval, count := interval }

/-- `DISARM`'s two writes; `INTERVAL` and the flag keep their values (R142). -/
def Timer.stop (T : Timer) : Timer := { T with armed := false, count := 0 }

/-- What an expiry does: the flag is set, a periodic timer reloads, a one-shot timer is no longer armed (R144). -/
def Timer.expire (m : Mode) (T : Timer) : Timer :=
  match m with
  | .periodic => { T with flag := true, count := T.interval }
  | .oneShot => { T with flag := true, count := 0, armed := false }

/-- One time unit passes for one timer (R144). A timer that is not armed is untouched. An armed timer has a count of at least
1 in every reachable state (R41 (c)); a count of 0 would wrap on 32 bits (log 16). -/
def Timer.tick (m : Mode) (T : Timer) : Timer :=
  if T.armed then
    if T.count - 1 = 0 then T.expire m else { T with count := T.count - 1 }
  else T

/-- `ARM t, I` inside or outside a service: interval 0 is refused and changes nothing (R141). -/
def armTimer (t : TimerId) (interval : Word) (s : State) : Answer :=
  if interval = 0 then .refused (.intervalZero t)
  else .next (s.setTimer t ((s.timer t).load interval))

/-- `DISARM t` (R142). -/
def disarmTimer (t : TimerId) (s : State) : State := s.setTimer t (s.timer t).stop

/-- `REARM t, I`: disarm, then arm, in one atomic step; with interval 0 nothing changes, the timer is not disarmed either
(R143). -/
def rearmTimer (t : TimerId) (interval : Word) (s : State) : Answer :=
  if interval = 0 then .refused (.intervalZero t)
  else armTimer t interval (disarmTimer t s)

/-- `TICK`'s step of all three timers, from the state before it (R144: "all in the same atomic step"). -/
def tickTimers (s : State) : State :=
  { s with
    tel := s.tel.tick (timerMode .tel)
    ackreq := s.ackreq.tick (timerMode .ackreq)
    ackwait := s.ackwait.tick (timerMode .ackwait) }

/-! ## The environment's side -/

/-- Drive the result bus (30_encoding.md R86). -/
def State.withRes (s : State) (r : Res) : State := { s with env := { s.env with res := r } }

/-- `emit` (00_scope.md R14, 60_exceptions.md R186): an output event, nothing else. -/
def State.emit (s : State) (o : Output) : State := { s with env := { s.env with emitted := s.env.emitted ++ [o] } }

/-- The environment's answer to this frame build: the first one listed, or, where none is listed, the free values at the
counter (R154, R155; 93 V1, V2; log 8). -/
def State.draw (s : State) : Draw :=
  match s.env.draws with
  | d :: _ => d
  | [] => { sensor := Config.sensorDraw s.env.drawCount, ok := Config.sendResult s.env.drawCount }

/-- The answer is used up: the next frame build draws another ("independent per frame", 93 V1). -/
def State.dropDraw (s : State) : State :=
  match s.env.draws with
  | _ :: ds => { s with env := { s.env with draws := ds } }
  | [] => { s with env := { s.env with drawCount := s.env.drawCount + 1 } }

/-- What the environment presents from here on. -/
def State.withPending (s : State) (p : List Input) : State := { s with env := { s.env with pending := p } }

end Sys2Proof.Machine
end

