-- ==== Sys2Proof/Machine/Scheduler.lean ====
section
/-! DEFINITION. Scheduler: `ARM`, `DISARM`, `REARM`, `TICK` (43_scheduler.md). -/

namespace Sys2Proof.Machine

/-- `ARM t, I` (R141). -/
def execArm (t : TimerId) (interval : Word) (s : State) : Answer := armTimer t interval (s.withRes .none)

/-- `DISARM t` (R142). -/
def execDisarm (t : TimerId) (s : State) : Answer := .next (disarmTimer t (s.withRes .none))

/-- `REARM t, I` (R143). -/
def execRearm (t : TimerId) (interval : Word) (s : State) : Answer := rearmTimer t interval (s.withRes .none)

/-- The agent `TIMER` waits (44_sequencer.md R153): the `TICK` stays the next operation presented, and nothing else changes
(log 4). -/
def holdTick (s : State) : State := s.withPending (.operation (encode .tick) :: s.env.pending)

/-- `TICK` (R144): one time unit passes for all three timers; while a timer flag is pending it is held (R153). -/
def execTick (s : State) : Answer :=
  if s.tickEnabled then .next ((tickTimers s).withRes .none) else .next ((holdTick s).withRes .none)

end Sys2Proof.Machine
end

