-- ==== Sys2Proof/Machine/Agents.lean ====
section
/-! DEFINITION. Which agent moves next (20_memory.md R66, 44_sequencer.md R153): the model's only deviation from "the next one
presented" is the hold. -/

namespace Sys2Proof.Machine

/-- The next transition of the machine. -/
inductive Move where
  /-- An operation, at the state it starts from. -/
  | perform (i : Instr) (s : State)
  /-- A reset that latches `c`; `e` is the environment after it. -/
  | restart (c : Cfg) (e : Env)
  /-- A reserved operation word. -/
  | reserved (opw : Byte)
deriving DecidableEq, Repr

/-- `TICK` waits while a timer flag is pending; nothing else is ever held (R153). -/
def held (i : Instr) (s : State) : Bool :=
  match i with
  | .tick => !s.tickEnabled
  | .lutgen | .crc8 _ | .enct _ _ _ _ _ | .deca _ _ _ | .matchInbox | .recEvent _ | .drain | .arm _ _ | .disarm _
  | .rearm _ _ | .rxd _ _ _ _ | .svctel | .svcreq | .svcwait | .poll => false

/-- The transition the state says comes next. With nothing presented the agent `SEQR`, which never blocks, takes a turn of its
loop (R150, R151; log 2). A held `TICK` stays presented and `SEQR` takes a turn, which is what lifts the hold (R153; log 3). -/
def nextMove (s : State) : Move :=
  match s.env.pending with
  | [] => .perform .poll s
  | .reset c :: rest => .restart c { s.env with pending := rest, res := .none }
  | .operation x :: rest =>
    match decode x with
    | .error (.reservedWord w) => .reserved w
    | .ok i => if held i s then .perform .poll s else .perform i (s.withPending rest)

/-- Reset (70_reset_and_hazards.md R210, R211; 60_exceptions.md R196): a record that breaks R10 is refused at launch (93 X7). -/
def launch (c : Cfg) (e : Env) : Answer :=
  if c.valid then .next (State.resetIn c e) else .refused .invalidConfiguration

/-- `x` presented before everything else. -/
def State.present (s : State) (x : Input) : State := s.withPending (x :: s.env.pending)

end Sys2Proof.Machine
end

