-- ==== Sys2Proof/Machine/Checksum.lean ====
section
/-! DEFINITION. Checksum Codec: `LUTGEN`, `CRC8` (40_checksum.md). -/

namespace Sys2Proof.Machine

/-- `LUTGEN` (R112): the table's 256 writes; no result, no flag. -/
def execLutgen (s : State) : Answer := .next ({ s with lut := fillLut s.cfg s.lut }.withRes .none)

/-- `CRC8` (R113): the checksum of `msg` on the result bus; no state is written. -/
def execCrc8 (msg : List Byte) (s : State) : Answer := .next (s.withRes (.checksum (crc8 s.lut msg)))

end Sys2Proof.Machine
end

