-- ==== Sys2Proof/Machine/EventAccumulator.lean ====
section
/-! DEFINITION. Event Accumulator: `REC`, `DRAIN` (42_event_accumulator.md). -/

namespace Sys2Proof.Machine

/-- `EV <- EV | (1 << s)` (R132). -/
def recordEvent (src : Source) (s : State) : State := s.writeEv (s.readEv ||| sourceMask src)

/-- `EV <- 0x00`, the clear half of `DRAIN`; the value read is `State.readEv` of the state before (R133). -/
def clearEvents (s : State) : State := s.writeEv 0x00

/-- `REC s` (R132). -/
def execRecEvent (src : Source) (s : State) : Answer := .next ((recordEvent src s).withRes .none)

/-- `DRAIN` (R133): the pending events on the result bus, and none pending after, in one atomic step. -/
def execDrain (s : State) : Answer := .next ((clearEvents s).withRes (.events s.readEv))

end Sys2Proof.Machine
end

