-- ==== Sys2Proof/Machine/FrameCodec.lean ====
section
/-! DEFINITION. Frame Codec: `ENCT`, `DECA`, `MATCH` (41_frame_codec.md). -/

namespace Sys2Proof.Machine

/-- Bytes 0 to 6 of a telemetry frame in wire order: what the checksum covers (R81, R120). -/
def frameHead (senderId : Half) (sequence options : Byte) (reading : Half) (events : Byte) : List Byte :=
  [hiByte senderId, loByte senderId, sequence, options, hiByte reading, loByte reading, events]

/-- `encodeTelemetry(senderId, sequence, options, reading, events)` (R120). -/
def encodeTelemetry (lut : Memory) (senderId : Half) (sequence options : Byte) (reading : Half) (events : Byte) :
    Frame where
  senderIdHi := hiByte senderId
  senderIdLo := loByte senderId
  sequence   := sequence
  options    := options
  readingHi  := hiByte reading
  readingLo  := loByte reading
  events     := events
  checksum   := crc8 lut (frameHead senderId sequence options reading events)

/-- `decodeAcknowledgement(b0, b1, b2)`: always succeeds (R121). -/
def decodeAck (b0 b1 b2 : Byte) : AckFrame := { peerByte0 := b0, peerByte1 := b1, peerByte2 := b2 }

/-- The acknowledgement in the inbox, decoded (R77, R122). -/
def inboxAck (s : State) : AckFrame := decodeAck (memRead s .inbox 0) (memRead s .inbox 1) (memRead s .inbox 2)

/-- The matching rule (R122): a valid inbox whose first two bytes are the identifier in swapped order; byte 2 takes no
part. -/
def inboxMatches (s : State) : Bool :=
  s.inboxValid && (inboxAck s).peerByte0 == loByte s.cfg.senderId && (inboxAck s).peerByte1 == hiByte s.cfg.senderId

/-- `ENCT` (R120): the frame on the result bus; no state is written. -/
def execEnct (senderId : Half) (sequence options : Byte) (reading : Half) (events : Byte) (s : State) : Answer :=
  .next (s.withRes (.frame (encodeTelemetry s.lut senderId sequence options reading events)))

/-- `DECA` (R121): the triple on the result bus; no state is written. -/
def execDeca (b0 b1 b2 : Byte) (s : State) : Answer := .next (s.withRes (.ack (decodeAck b0 b1 b2)))

/-- `MATCH` (R122): the match bit on the result bus; no state is written. -/
def execMatchInbox (s : State) : Answer := .next (s.withRes (.matched (inboxMatches s)))

end Sys2Proof.Machine
end

