-- ==== Sys2Proof/Machine/RetryBackoff.lean ====
section
/-! DEFINITION. Retry/Backoff State Machine: `SVCWAIT` (45_retry_backoff.md). -/

namespace Sys2Proof.Machine

/-- "Clear the inbox": three writes of 0x00 and `INBOX_VALID <- 0` (R77, R167). -/
def clearInbox (s : State) : State := { memWriteList s .inbox 0 [0x00, 0x00, 0x00] with inboxValid := false }

/-- `min(RETRY_COUNT + 1, CFG.RETRY_MAX)`, on naturals (00_scope.md R16 (b), R168). -/
def nextRetryCount (retryCount retryMax : Half) : Half := BitVec.ofNat 16 (min (retryCount.toNat + 1) retryMax.toNat)

/-- `CFG.BASE_ACK + CFG.BASE_ACK * n`, on naturals (R16 (c), R169); it fits 32 bits in every valid configuration (log 17). -/
def backoffInterval (baseAck : Word) (n : Half) : Word := BitVec.ofNat 32 (baseAck.toNat + baseAck.toNat * n.toNat)

/-- Both periodic timers rearmed and the two interval registers written with them (R167, R168; 10_state.md R25). -/
def rearmBoth (telInterval ackInterval : Word) (s : State) : Answer :=
  andThen (rearmTimer .tel telInterval s) fun s1 =>
    andThen (rearmTimer .ackreq ackInterval s1) fun s2 =>
      .next { s2 with pktInterval := telInterval, ackInterval := ackInterval }

/-- The match path (R167): in `Healthy` nothing but the inbox changes; in `Degraded` the count is 0 again and both timers are
rearmed at base values; the notice `ACKED` in both. -/
def matchPath (s : State) : Answer :=
  andThen
    (if s.retryCount = 0 then .next (clearInbox s)
     else rearmBoth s.cfg.baseTel s.cfg.baseAck { clearInbox s with retryCount := 0 })
    fun s1 => .next (s1.emit (.status .acked 0))

/-- The no-match path (R168): the count is incremented first, the interval uses the new count; the inbox is left as it is. -/
def noMatchPath (s : State) : Answer :=
  let n := nextRetryCount s.retryCount s.cfg.retryMax
  let interval := backoffInterval s.cfg.baseAck n
  andThen (rearmBoth interval interval ({ s with retryCount := n }.writeOptions (s.readOptions ||| optRetry)))
    fun s1 => .next (s1.emit (.status .retrying n))

/-- The service of `T[ACKWAIT].FLAG` (R166). -/
def serviceWait (s : State) : Answer :=
  if s.ackwait.flag then
    if inboxMatches s then matchPath (s.clearFlag .ackwait) else noMatchPath (s.clearFlag .ackwait)
  else .refused (.flagClear .ackwait)

/-- `SVCWAIT` (R166). -/
def execSvcwait (s : State) : Answer := serviceWait (s.withRes .none)

end Sys2Proof.Machine
end

