-- ==== Sys2Proof/Machine/Sequencer.lean ====
section
/-! DEFINITION. The sequencer and the receive path: `POLL`, `SVCTEL`, `SVCREQ`, `RXD` (44_sequencer.md). -/

namespace Sys2Proof.Machine

/-- The frame a `SVCTEL` at state `s` builds: `SEQ` before its increment, `OPTIONS`, the drained events, the sensor sampled now
(R154, R155). -/
def telemetryFrame (s : State) : Frame :=
  encodeTelemetry s.lut s.cfg.senderId s.seq s.readOptions s.draw.sensor s.readEv

/-- Build and offer the frame (R155): events drained, `TXBUF` written, the frame emitted, `SEQ` advanced, the answer used. -/
def sendFrame (s : State) : State :=
  let s1 := memWriteList (clearEvents s) .txbuf 0 (frameBytes (telemetryFrame s))
  ({ s1 with seq := s1.seq + 1 }.emit (.tx (telemetryFrame s))).dropDraw

/-- What the send result does (R155, R156): after success the per-send bits are cleared; after a failure they are kept and the
notice `TXFAIL` is emitted. -/
def afterSend (ok : Bool) (s : State) : State :=
  if ok then s.writeOptions (s.readOptions &&& ~~~(optAckrq ||| optRetry)) else s.emit (.status .txfail 0)

/-- The service of `T[TEL].FLAG` (R155). -/
def serviceTel (s : State) : Answer :=
  if s.tel.flag then .next (afterSend s.draw.ok (sendFrame (s.clearFlag .tel)))
  else .refused (.flagClear .tel)

/-- The service of `T[ACKREQ].FLAG` (R157): the request bit for the next frame, and the wait timer armed. -/
def serviceReq (s : State) : Answer :=
  if s.ackreq.flag then
    armTimer .ackwait s.cfg.ackWait ((s.clearFlag .ackreq).writeOptions (s.readOptions ||| optAckrq))
  else .refused (.flagClear .ackreq)

/-- One turn of the consumer loop (R151): the service of the first pending flag in the order of R152, or nothing. -/
def pollTurn (s : State) : Answer :=
  match s.nextService with
  | some .ackwait => serviceWait s
  | some .ackreq => serviceReq s
  | some .tel => serviceTel s
  | none => .next s

/-- `SVCTEL` (R155). -/
def execSvctel (s : State) : Answer := serviceTel (s.withRes .none)

/-- `SVCREQ` (R157). -/
def execSvcreq (s : State) : Answer := serviceReq (s.withRes .none)

/-- `POLL` (R151). -/
def execPoll (s : State) : Answer := pollTurn (s.withRes .none)

/-- `RXD LEN, d0, d1, d2` (R158): a datagram of three bytes is stored whole in one atomic step, any other is dropped. -/
def execRxd (len : Half) (d0 d1 d2 : Byte) (s : State) : Answer :=
  if len = 3 then .next ({ memWriteList s .inbox 0 [d0, d1, d2] with inboxValid := true }.withRes .none)
  else .next (s.withRes .none)

end Sys2Proof.Machine
end

