-- ==== Sys2Proof/Machine/Dispatch.lean ====
section
/-! DEFINITION. One arm for each operation of the table (30_encoding.md R87). -/

namespace Sys2Proof.Machine

def exec (i : Instr) (s : State) : Host.Outcome State Fault Refusal :=
  match i with
  | .lutgen => Sys2Proof.Machine.execLutgen s
  | .crc8 msg => Sys2Proof.Machine.execCrc8 msg s
  | .enct senderId sequence options reading events => Sys2Proof.Machine.execEnct senderId sequence options reading events s
  | .deca b0 b1 b2 => Sys2Proof.Machine.execDeca b0 b1 b2 s
  | .matchInbox => Sys2Proof.Machine.execMatchInbox s
  | .recEvent src => Sys2Proof.Machine.execRecEvent src s
  | .drain => Sys2Proof.Machine.execDrain s
  | .arm t interval => Sys2Proof.Machine.execArm t interval s
  | .disarm t => Sys2Proof.Machine.execDisarm t s
  | .rearm t interval => Sys2Proof.Machine.execRearm t interval s
  | .tick => Sys2Proof.Machine.execTick s
  | .rxd len d0 d1 d2 => Sys2Proof.Machine.execRxd len d0 d1 d2 s
  | .svctel => Sys2Proof.Machine.execSvctel s
  | .svcreq => Sys2Proof.Machine.execSvcreq s
  | .svcwait => Sys2Proof.Machine.execSvcwait s
  | .poll => Sys2Proof.Machine.execPoll s

end Sys2Proof.Machine
end

