-- ==== Sys2Proof/Machine/Step.lean ====
section
/-! DEFINITION. One step: one atomic transition of the whole state (20_memory.md R65, R66). -/

namespace Sys2Proof.Machine

/-- One step: the transition that comes next. RLB fetches nothing (10_state.md R27): operations are presented to it. -/
def step (s : State) : Host.Outcome State Fault Refusal :=
  match nextMove s with
  | .perform i s1 => exec i s1
  | .restart c e => launch c e
  | .reserved w => .refused (.reservedWord w)

/-- `s` with the table word `w` of `nbits` bits presented on the operation port before everything else (log 9). -/
def State.withFetchWord (s : State) (nbits w : Nat) : State := s.present (.operation (tableIssue nbits w))

end Sys2Proof.Machine
end

