-- ==== Sys2Proof/Machine/Pseudo.lean ====
section
/-! DEFINITION. The pseudo-operations of the trace notation (30_encoding.md R98), each as its expansion into operations. -/

namespace Sys2Proof.Machine

/-- `POLL` repeated while a flag is pending, at most `n` times. -/
def settleFor : Nat → State → Answer
  | 0, s => .next s
  | n + 1, s => if s.anyFlag then andThen (exec .poll s) (settleFor n) else .next s

/-- `SETTLE`: "repeat `POLL` while any `T[t].FLAG == 1` (at most three `POLL`s, since a service sets no flag)". -/
def settle (s : State) : Answer := settleFor 3 s

/-- `STEP`: `TICK` ; `SETTLE`. -/
def stepUnit (s : State) : Answer := andThen (exec .tick s) settle

/-- `RUN n`: `STEP` repeated n times. -/
def runUnits : Nat → State → Answer
  | 0, s => .next s
  | n + 1, s => andThen (stepUnit s) (runUnits n)

/-- `ACK`: a matching acknowledgement. -/
def ackInstr (c : Cfg) : Instr := .rxd 3 (loByte c.senderId) (hiByte c.senderId) 0x00

/-- `NAK b0, b1`: a three-byte datagram; it is a `NAK` when `(b0, b1)` is not the swapped identifier. -/
def nakInstr (b0 b1 : Byte) : Instr := .rxd 3 b0 b1 0x00

/-- `PRESS s`. -/
def pressInstr (src : Source) : Instr := .recEvent src

end Sys2Proof.Machine
end

