-- ==== Sys2Proof/Safety.lean ====
section
/-! DEFINITION. What a claim about RLB may rest on: the agents and their operations (00_scope.md R8), a sequencer-only run
(10_state.md R41), the invariants of R41 and R170. -/

namespace Sys2Proof.Machine

/-- The agents of R8, and reset, which issues `LUTGEN` (R211). -/
inductive Agent where
  | timer | event | recv | seqr | reset
deriving DecidableEq, Repr

/-- Who issues an operation (30_encoding.md R87). -/
def issuer : Instr → Agent
  | .lutgen => .reset
  | .tick => .timer
  | .recEvent _ => .event
  | .rxd _ _ _ _ => .recv
  | .crc8 _ | .enct _ _ _ _ _ | .deca _ _ _ | .matchInbox | .drain | .arm _ _ | .disarm _ | .rearm _ _ | .svctel | .svcreq
  | .svcwait | .poll => .seqr

/-- The operations that a sequencer-only run performs only inside the services: R41's four. 30_encoding.md R87 stars `CRC8`, `ENCT`,
`DECA` and `MATCH` as well; the model takes R41's list (DESIGN CHOICE, log 23, safe: those four write no state of the block, and a
run that issues them alone is still one that the statements cover). -/
def insideServicesOnly : Instr → Bool
  | .arm _ _ | .disarm _ | .rearm _ _ | .drain => true
  | .lutgen | .crc8 _ | .enct _ _ _ _ _ | .deca _ _ _ | .matchInbox | .recEvent _ | .tick | .rxd _ _ _ _ | .svctel | .svcreq
  | .svcwait | .poll => false

/-- The next step is one of a sequencer-only run (R41, R189: a premise of claims). -/
def sequencerOnly (s : State) : Bool :=
  match nextMove s with
  | .perform i _ => !insideServicesOnly i
  | .restart _ _ => true
  | .reserved _ => false

/-- R41 (c) for one timer: not armed, the count is 0; armed, the count is from 1 to the interval. -/
def Timer.sane (T : Timer) : Prop :=
  (T.armed = false → T.count = 0) ∧ (T.armed = true → 1 ≤ T.count.toNat ∧ T.count.toNat ≤ T.interval.toNat)

/-- A byte space in canonical form and inside its size (20_memory.md R60). -/
def Memory.ok (size : Nat) (m : Memory) : Prop := m.wf ∧ m.within size

/-- The invariant of every run, whatever operations are issued: the configuration keeps R10; R41 (a), (b), (c), (g), (h); the
count stays under its ceiling (R168 (d)); the byte spaces keep their canonical form. -/
structure State.Inv (s : State) : Prop where
  cfgValid    : s.cfg.valid = true
  options     : s.options.getLsbD 1 = true ∧ s.options.extractLsb' 3 5 = 0
  ev          : s.ev.getLsbD 7 = false
  retryCount  : s.retryCount.toNat ≤ s.cfg.retryMax.toNat
  timers      : ∀ t, (s.timer t).sane
  inboxEmpty  : s.inboxValid = false → ∀ a, memRead s .inbox a = 0x00
  lut         : ∀ i : Byte, memRead s .lut i.toNat = tableEntry s.cfg i
  spaces      : ∀ S, Memory.ok S.size (s.space S)

/-- The further invariant of a sequencer-only run: R41 (d), (e) and the interval law of R170 (R41 (f)). -/
structure State.LoopInv (s : State) : Prop where
  armed       : s.tel.armed = true ∧ s.ackreq.armed = true
  intervals   : s.pktInterval = s.tel.interval ∧ s.ackInterval = s.ackreq.interval ∧ s.ackwait.interval = s.cfg.ackWait
  healthy     : s.retryCount = 0 → s.ackInterval = s.cfg.baseAck ∧ s.pktInterval = s.cfg.baseTel
  degraded    : s.retryCount ≠ 0 → s.ackInterval = s.pktInterval ∧
    s.ackInterval.toNat = s.cfg.baseAck.toNat + s.cfg.baseAck.toNat * s.retryCount.toNat

/-- The two periodic timers run in step (44_sequencer.md R159 (a)): in `Healthy` their counts differ by a multiple of the
telemetry period, in `Degraded` they are equal. -/
def State.InPhase (s : State) : Prop :=
  (s.retryCount = 0 → s.ackreq.count.toNat % s.cfg.baseTel.toNat = s.tel.count.toNat % s.cfg.baseTel.toNat) ∧
  (s.retryCount ≠ 0 → s.ackreq.count = s.tel.count)

/-- The block's own state (everything but the environment's side) is the same in `s` and `t`. -/
def SameBlock (s t : State) : Prop := { t with env := s.env } = s

/-- The environment's side is the same but for the result bus, which carries `r`. -/
def OnlyRes (s t : State) (r : Res) : Prop := t.env = { s.env with res := r }

/-- Every byte of the space reads as before. -/
def SameSpace (s t : State) (S : Space) : Prop := ∀ a, memRead t S a = memRead s S a

/-- Every byte of every space reads as before. -/
def SameBytes (s t : State) : Prop := ∀ S, SameSpace s t S

/-- The words of 30_encoding.md R92 that name no operation, read on `OPC = OPW / 16` and `ARG = OPW % 16`. -/
def reservedByR92 (w : Byte) : Prop :=
  let opc := w.toNat / 16
  let arg := w.toNat % 16
  opc = 0x0 ∨ opc = 0xF ∨
  ((opc = 0x1 ∨ opc = 0x2 ∨ opc = 0x3 ∨ opc = 0x4 ∨ opc = 0x5 ∨ opc = 0x7 ∨ opc = 0xB ∨ opc = 0xC ∨ opc = 0xE) ∧ arg ≠ 0) ∨
  (opc = 0x6 ∧ (arg = 7 ∨ 8 ≤ arg)) ∨
  ((opc = 0x8 ∨ opc = 0x9 ∨ opc = 0xA) ∧ (arg % 4 = 3 ∨ 4 ≤ arg)) ∨
  (opc = 0xD ∧ arg ≠ 0 ∧ arg ≠ 1 ∧ arg ≠ 2)

/-- The service of each timer's flag (10_state.md R28). -/
def serviceOf : TimerId → Instr
  | .tel => .svctel
  | .ackreq => .svcreq
  | .ackwait => .svcwait

/-- Operation `i` at state `s` runs the service of timer `u`: it is that service, or it is `POLL` and that flag is the first
pending one in the order of R152. -/
def Serves (i : Instr) (s : State) (u : TimerId) : Prop := i = serviceOf u ∨ (i = .poll ∧ s.nextService = some u)

/-- Operation `i` at state `s` loads timer `u` (10_state.md R30): `ARM u` or `REARM u`, or a service that performs one: the request
service arms the wait timer (R157), the wait service rearms the two periodic ones (R167, R168). -/
def Loads (i : Instr) (s : State) (u : TimerId) : Prop :=
  (∃ I, i = .arm u I ∨ i = .rearm u I) ∨ (u = .ackwait ∧ Serves i s .ackreq) ∨ (u ≠ .ackwait ∧ Serves i s .ackwait)

/-- The answer of recording the sources of a list one after another (R134). -/
def recordAll (srcs : List Source) (s : State) : Answer :=
  srcs.foldl (fun a src => andThen a (exec (.recEvent src))) (.next s)

/-- An input that the environment of a running block presents (60_exceptions.md R196, R180): a reset with a legal record, or an
operation that is not reserved, whose interval is not 0, and that is not a service (the sequencer issues those, by `POLL`). -/
def presentable (x : Input) : Bool :=
  match x with
  | .reset c => c.valid
  | .operation w =>
    match decode w with
    | .ok i => i.wellFormed && i != .svctel && i != .svcreq && i != .svcwait
    | .error _ => false

/-- A safe run of `n` steps: it meets no refusal, and every state on the way meets the invariant. -/
def SafeFor : Nat → State → Prop
  | 0, s => s.Inv
  | n + 1, s => s.Inv ∧ ∃ t, step s = .next t ∧ SafeFor n t

end Sys2Proof.Machine
end

