-- ==== Sys2Proof/Certificates/Slice0/Obligations.lean ====
section
/-! DEFINITION. The statements for the provers. The frame of an operation is given as an equality of the state after it with the
state before, the written fields named and excepted; bytes of memory are said through `memRead` as well. "log <n>" is a row of
notes/assumptions/; "D<n>" is a decision of spec/92_eei_decisions.md. -/

open Sys2Proof Sys2Proof.Machine

/-! ## Encoding -/

/-- Decoding an encoded operation gives it back, with every operand at every value. The operation word and the buses are the
spec's own encoding (R85 to R89, D20); the layout of the operand bus beyond R86's widths is log 5. -/
def Obligations.DecodeOfEncodeIsTheInstruction : Prop :=
  ∀ i : Instr, decode (encode i) = .ok i

/-- The other direction: a presented operation that decodes to `i` carries `i`'s operation word, so each word names one row
(R87, D20). -/
def Obligations.DecodedWordIsTheInstructionsWord : Prop :=
  ∀ (x : Issue) (i : Instr), decode x = .ok i → x.opw = encodeWord i

/-- Words written out from R87's table (D20) decode to the operations they stand for. That what stands on operand lines and in a
byte stream they do not use is ignored is the model's choice, log 6, and no rule of the spec. -/
def Obligations.FullWordsDecode : Prop :=
  ∀ (opd : BitVec 56) (msg : List Byte),
    decode ⟨0b00010000, opd, msg⟩ = .ok .lutgen ∧
    decode ⟨0b00100000, opd, msg⟩ = .ok (.crc8 msg) ∧
    decode ⟨0b01010000, opd, msg⟩ = .ok .matchInbox ∧
    decode ⟨0b01100110, opd, msg⟩ = .ok (.recEvent .fire) ∧
    decode ⟨0b01110000, opd, msg⟩ = .ok .drain ∧
    decode ⟨0b10010010, opd, msg⟩ = .ok (.disarm .ackwait) ∧
    decode ⟨0b10110000, opd, msg⟩ = .ok .tick ∧
    decode ⟨0b11010000, opd, msg⟩ = .ok .svctel ∧
    decode ⟨0b11010001, opd, msg⟩ = .ok .svcreq ∧
    decode ⟨0b11010010, opd, msg⟩ = .ok .svcwait ∧
    decode ⟨0b11100000, opd, msg⟩ = .ok .poll

/-- The words of R92, and no others, decode to nothing, and the machine refuses a step that would perform one (R92, D20). -/
def Obligations.ExactlyTheReservedWordsAreRefused : Prop :=
  (∀ x : Issue, decode x = .error (.reservedWord x.opw) ↔ reservedByR92 x.opw) ∧
  (∀ x : Issue, ¬ reservedByR92 x.opw → ∃ i, decode x = .ok i) ∧
  (∀ (s : State) (x : Issue) (rest : List Input), s.env.pending = .operation x :: rest → reservedByR92 x.opw →
    step s = .refused (.reservedWord x.opw))

/-- The two wire frames as words: byte k of the telemetry frame at `F[63-8k : 56-8k]` (R81), byte k of the acknowledgement frame
at `A[23-8k : 16-8k]` (R82). -/
def Obligations.WireFramesAreLaidOutHighByteFirst : Prop :=
  (∀ (f : Frame) (k : Nat), k < 8 → (frameWord f).extractLsb' (56 - 8 * k) 8 = (frameBytes f).getD k 0) ∧
  (∀ (a : AckFrame) (k : Nat), k < 3 →
    (ackWord a).extractLsb' (16 - 8 * k) 8 = [a.peerByte0, a.peerByte1, a.peerByte2].getD k 0)

/-! ## Stepping -/

/-- A step performs the operation presented first and takes it off the port; so it does the table word that `withFetchWord`
presents. The exception is a held `TICK` (R153). That operations are presented as a list is the model's choice, log 1. -/
def Obligations.StepPerformsThePresentedOperation : Prop :=
  (∀ (s : State) (x : Issue) (rest : List Input) (i : Instr), s.env.pending = .operation x :: rest → decode x = .ok i →
    (i = .tick → s.anyFlag = false) → step s = exec i (s.withPending rest)) ∧
  (∀ (s : State) (w : Nat) (i : Instr), decode (tableIssue 8 w) = .ok i → (i = .tick → s.anyFlag = false) →
    step (s.withFetchWord 8 w) = exec i s)

/-- While a timer flag is pending a `TICK` waits: issued, it changes nothing and stays presented; at a step, the sequencer takes
a turn instead and the `TICK` stays presented (R153, D16; log 3, log 4). -/
def Obligations.HeldTickWaitsAndTheLoopTurns : Prop :=
  (∀ s : State, s.anyFlag = true → ∃ t, exec .tick s = .next t ∧ SameBlock s t ∧ SameBytes s t ∧
    t.env = { s.env with pending := .operation (encode .tick) :: s.env.pending, res := .none }) ∧
  (∀ (s : State) (x : Issue) (rest : List Input), s.env.pending = .operation x :: rest → decode x = .ok .tick →
    s.anyFlag = true → step s = exec .poll s ∧ ∀ t, step s = .next t → t.env.pending = s.env.pending)

/-- The hold always lifts: at most three turns of the loop, and then the waiting `TICK` is performed (R153: "at most three are
needed"; D16). -/
def Obligations.HoldLiftsWithinThreeTurns : Prop :=
  ∀ (s : State) (x : Issue) (rest : List Input), s.Inv → s.env.pending = .operation x :: rest → decode x = .ok .tick →
    s.anyFlag = true →
    ∃ k t, k ≤ 3 ∧ Host.Core.run Sys2Proof.core k s = .next t ∧ t.env.pending = s.env.pending ∧ t.anyFlag = false ∧
      step t = exec .tick (t.withPending rest)

/-- With nothing presented the agent `SEQR` takes a turn of its loop (R150, R151, R194). The model's reading, log 2. -/
def Obligations.IdlePortLeavesTheLoopTurning : Prop :=
  ∀ s : State, s.env.pending = [] → step s = exec .poll s

/-! ## Reset -/

/-- After reset with any record `c`, every piece of state has the value of R40's table (decided values: D8, D9, D14, D18), the
table entries are `CFG.TABLE`, and nothing has been emitted (R212). The default record's constants are R9's and R10's. -/
def Obligations.ResetHoldsTheTabledValues : Prop :=
  (∀ c : Cfg, let s := State.resetWith c
    s.cfg = c ∧ s.seq = c.seqInit ∧ s.options = 0x02 ∧ s.ev = 0x00 ∧ s.retryCount = 0 ∧
    s.ackInterval = c.baseAck ∧ s.pktInterval = c.baseTel ∧
    s.tel = ⟨true, c.baseTel, c.baseTel, false⟩ ∧ s.ackreq = ⟨true, c.baseAck, c.baseAck, false⟩ ∧
    s.ackwait = ⟨false, c.ackWait, 0, false⟩ ∧
    (∀ a, memRead s .inbox a = 0x00) ∧ s.inboxValid = false ∧ (∀ a, memRead s .txbuf a = 0x00) ∧
    (∀ i : Byte, memRead s .lut i.toNat = tableEntry c i) ∧ s.env.emitted = []) ∧
  (State.reset.cfg.baseTel = 10 ∧ State.reset.cfg.baseAck = 60 ∧ State.reset.cfg.ackWait = 5 ∧
    State.reset.cfg.poly = 0x07 ∧ State.reset.cfg.retryMax = 65535 ∧ State.reset.cfg.seqInit = 0)

/-- A presented reset with a record that keeps R10 leaves the reset state, whatever the state held before ("whatever it held
before", R210); a record that breaks R10 is refused at launch (93 X7). That the environment's side goes on is log 19. -/
def Obligations.ResetForgetsTheStateBefore : Prop :=
  (∀ (s : State) (c : Cfg) (rest : List Input), s.env.pending = .reset c :: rest → c.valid = true →
    step s = .next (State.resetIn c { s.env with pending := rest, res := .none })) ∧
  (∀ (s u : State) (c : Cfg) (rest : List Input), s.env.pending = .reset c :: rest → u.env = s.env → step s = step u) ∧
  (∀ (s : State) (c : Cfg) (rest : List Input), s.env.pending = .reset c :: rest → c.valid = false →
    step s = .refused .invalidConfiguration) ∧
  (∀ c : Cfg, c.valid = true ↔ 1 ≤ c.baseTel.toNat ∧ 1 ≤ c.baseAck.toNat ∧ 1 ≤ c.ackWait.toNat ∧
    c.baseAck.toNat * (c.retryMax.toNat + 1) < 2 ^ 32)

/-- No frame and no notice before t = `CFG.BASE_TEL`; at that time the first frame leaves, with the first sequence number
(R212, R159), when `CFG.BASE_ACK` is a multiple of `CFG.BASE_TEL` (R213 (2)). Time is counted by `RUN n` (R98). -/
def Obligations.FirstFrameLeavesAtTheFirstTelemetryTime : Prop :=
  ∀ c : Cfg, c.valid = true → c.baseTel.toNat ∣ c.baseAck.toNat →
    (∀ n, n < c.baseTel.toNat → ∃ t, runUnits n (State.resetWith c) = .next t ∧ t.env.emitted = []) ∧
    ∃ t f, runUnits c.baseTel.toNat (State.resetWith c) = .next t ∧ t.env.emitted.head? = some (.tx f) ∧
      f.sequence = c.seqInit ∧ f.senderIdHi = hiByte c.senderId ∧ f.senderIdLo = loByte c.senderId

/-! ## Checksum Codec -/

/-- `LUTGEN` leaves `CFG.TABLE[i]` at each of the 256 indexes and changes nothing else (R112; the table given or generated, R111,
D4). -/
def Obligations.LutgenWritesTheTable : Prop :=
  ∀ s : State, s.lut.wf → ∃ t, exec .lutgen s = .next t ∧
    (∀ i : Byte, memRead t .lut i.toNat = tableEntry s.cfg i) ∧
    (∀ a, 256 ≤ a → memRead t .lut a = memRead s .lut a) ∧ SameSpace s t .inbox ∧ SameSpace s t .txbuf ∧
    { t with lut := s.lut, env := s.env } = s ∧ OnlyRes s t .none

/-- Issued after reset, `LUTGEN` "writes the same values again and so changes nothing" (R112, D5). -/
def Obligations.LutgenAgainChangesNothing : Prop :=
  ∀ s : State, s.Inv → ∃ t, exec .lutgen s = .next t ∧ SameBlock s t ∧ SameBytes s t ∧ OnlyRes s t .none

/-- The generated table, for every polynomial: entry 0 is 0, entry 1 is the polynomial (R112's corner cases), doubling an index
below 128 is one more step of the generator on its entry, and the entries are linear over exclusive or. Derived from R112's
pseudocode; these four facts fix all 256 entries. -/
def Obligations.GeneratedTableIsLinear : Prop :=
  ∀ poly : Byte, genEntry poly 0 = 0 ∧ genEntry poly 1 = poly ∧
    (∀ i : Byte, i.toNat < 128 → genEntry poly (i <<< 1) =
      if (genEntry poly i).toNat < 128 then (genEntry poly i) <<< 1 else ((genEntry poly i) <<< 1) ^^^ poly) ∧
    (∀ a b : Byte, genEntry poly (a ^^^ b) = genEntry poly a ^^^ genEntry poly b)

/-- `CRC8` of a byte sequence of any length: 0 for the empty one, and each further byte `b` indexes the table by accumulator
exclusive-or `b`; the code is put on the result bus, nothing but the table is read and no state is written (R110; as `CRC8`, R113). -/
def Obligations.Crc8FoldsTheTableLeftToRight : Prop :=
  ∀ s : State, ∃ crc : List Byte → Byte,
    crc [] = 0x00 ∧
    (∀ u : State, (∀ i : Byte, memRead u .lut i.toNat = memRead s .lut i.toNat) → ∀ msg,
      exec (.crc8 msg) u = .next (u.withRes (.checksum (crc msg)))) ∧
    (∀ m b, crc (m ++ [b]) = memRead s .lut (crc m ^^^ b).toNat) ∧
    (∀ b, crc [b] = memRead s .lut b.toNat) ∧
    ∀ msg, ∃ t, exec (.crc8 msg) s = .next t ∧ OnlyRes s t (.checksum (crc msg)) ∧ SameBlock s t ∧ SameBytes s t

/-- With a generated table, a run of zero bytes has checksum 0 and so does every message followed by its own checksum (R114 (d),
(e)). Derived there from R112, R113. -/
def Obligations.MessageWithItsChecksumHasResidueZero : Prop :=
  ∀ s : State, s.Inv → s.cfg.table = none →
    (∀ n, exec (.crc8 (List.replicate n 0x00)) s = .next (s.withRes (.checksum 0x00))) ∧
    (∀ (msg : List Byte) (c : Byte), exec (.crc8 msg) s = .next (s.withRes (.checksum c)) →
      exec (.crc8 (msg ++ [c])) s = .next (s.withRes (.checksum 0x00)))

/-- With the default table (`CFG.POLY` = 0x07, the spec's general-knowledge value, D4, log 12) the nine ASCII bytes "123456789"
have checksum 0xF4 (R114 (f)). -/
def Obligations.DefaultTableGivesTheCheckValue : Prop :=
  ∀ s : State, s.Inv → s.cfg.table = none → s.cfg.poly = 0x07 →
    exec (.crc8 [0x31, 0x32, 0x33, 0x34, 0x35, 0x36, 0x37, 0x38, 0x39]) s = .next (s.withRes (.checksum 0xF4))

/-! ## Frame Codec -/

/-- `ENCT`, word 0x30 with its operands on the bus as R86 lays them out, builds the frame: sender id high byte, low byte, sequence,
options, reading high byte, low byte, events, each copied as given, then the checksum of those seven bytes; it checks nothing and
writes no state (R120). With a generated table all-zero operands give the all-zero frame: R114 (d), where R120 speaks of the default
table. Word and bus are the spec's own encoding (D20); that the byte stream `ENCT` does not use is ignored by the decoder is the
model's choice, log 6, and no rule of the spec. -/
def Obligations.EnctBuildsTheFrame : Prop :=
  (∀ (senderId : Half) (sequence options : Byte) (reading : Half) (events : Byte) (msg : List Byte),
    decode ⟨0x30, senderId ++ sequence ++ options ++ reading ++ events, msg⟩ =
      .ok (.enct senderId sequence options reading events)) ∧
  (∀ (senderId : Half) (sequence options : Byte) (reading : Half) (events : Byte) (s : State), ∃ (f : Frame) (t : State),
    exec (.enct senderId sequence options reading events) s = .next t ∧ OnlyRes s t (.frame f) ∧ SameBlock s t ∧
    SameBytes s t ∧
    (frameBytes f).take 7 = [BitVec.ofNat 8 (senderId.toNat / 256), BitVec.ofNat 8 (senderId.toNat % 256), sequence, options,
      BitVec.ofNat 8 (reading.toNat / 256), BitVec.ofNat 8 (reading.toNat % 256), events] ∧
    (frameBytes f).drop 7 = [f.checksum] ∧
    exec (.crc8 ((frameBytes f).take 7)) s = .next (s.withRes (.checksum f.checksum))) ∧
  (∀ s : State, s.Inv → s.cfg.table = none → exec (.enct 0 0 0 0 0) s = .next (s.withRes (.frame ⟨0, 0, 0, 0, 0, 0, 0, 0⟩)))

/-- `ENCT` is injective in its five operands: frames that agree in their first seven bytes come from the same operands (R124,
derived there from R120). -/
def Obligations.FrameDeterminesItsOperands : Prop :=
  ∀ (s u : State) (id id' : Half) (q q' o o' : Byte) (r r' : Half) (e e' : Byte) (f f' : Frame),
    exec (.enct id q o r e) s = .next (s.withRes (.frame f)) →
    exec (.enct id' q' o' r' e') u = .next (u.withRes (.frame f')) →
    (frameBytes f).take 7 = (frameBytes f').take 7 →
    id = id' ∧ q = q' ∧ o = o' ∧ r = r' ∧ e = e'

/-- `DECA`, word 0x40, answers its three bytes as they are, whatever they are: it never fails, checks nothing and writes no state
(R121). The word is the spec's own encoding (D20); that what stands on the other operand lines and in the byte stream is ignored by
the decoder, so that the word decodes whatever they carry, is the model's choice, log 6 (where the three bytes stand, log 5), and no
rule of the spec. -/
def Obligations.DecaAnswersItsThreeBytes : Prop :=
  (∀ (opd : BitVec 56) (msg : List Byte), ∃ b0 b1 b2, decode ⟨0x40, opd, msg⟩ = .ok (.deca b0 b1 b2)) ∧
  (∀ (b0 b1 b2 : Byte) (s : State), ∃ t, exec (.deca b0 b1 b2) s = .next t ∧ OnlyRes s t (.ack ⟨b0, b1, b2⟩) ∧
    SameBlock s t ∧ SameBytes s t)

/-- `MATCH` is 1 exactly for a valid inbox whose byte 0 is the low byte and byte 1 the high byte of the sender identifier, whatever
byte 2 is; it writes no state (R122, R82; that an inbox which is not valid never matches is D18). -/
def Obligations.MatchAcceptsTheSwappedIdentifierOnly : Prop :=
  ∀ s : State, ∃ (b : Bool) (t : State), exec .matchInbox s = .next t ∧ OnlyRes s t (.matched b) ∧ SameBlock s t ∧
    SameBytes s t ∧
    (b = true ↔ s.inboxValid = true ∧ (memRead s .inbox 0).toNat = s.cfg.senderId.toNat % 256 ∧
      (memRead s .inbox 1).toNat = s.cfg.senderId.toNat / 256)

/-! ## Event Accumulator -/

/-- `REC s`, word 0x60 + s for s from 0 to 6 (word 0x67 is refused), sets exactly the bit of its source (switches 0, 1; up 2; down 3;
left 4; right 5; fire 6) and changes nothing else; recording twice is recording once, and two recordings commute (R132, R131). The
words are the spec's own encoding (D20), bit 7 and its word without a source D23; that what stands on operand lines and in a byte
stream `REC` does not use is ignored by the decoder is the model's choice, log 6, and no rule of the spec. -/
def Obligations.RecSetsExactlyItsBit : Prop :=
  (∀ (src : Source) (opd : BitVec 56) (msg : List Byte), decode ⟨BitVec.ofNat 8 (0x60 + match src with
      | .switchA => 0 | .switchB => 1 | .padUp => 2 | .padDown => 3 | .padLeft => 4 | .padRight => 5 | .fire => 6), opd, msg⟩ =
    .ok (.recEvent src)) ∧
  (∀ (s : State) (opd : BitVec 56) (msg : List Byte),
    step (s.present (.operation ⟨0x67, opd, msg⟩)) = .refused (.reservedWord 0x67)) ∧
  (∀ (src : Source) (s : State), ∃ t, exec (.recEvent src) s = .next t ∧
    (∀ k, t.ev.getLsbD k = (decide (k = match src with
      | .switchA => 0 | .switchB => 1 | .padUp => 2 | .padDown => 3 | .padLeft => 4 | .padRight => 5 | .fire => 6) ||
      s.readEv.getLsbD k)) ∧
    t.readEv = t.ev ∧ { t with ev := s.ev, env := s.env } = s ∧ SameBytes s t ∧ OnlyRes s t .none) ∧
  (∀ (src : Source) (s : State), andThen (exec (.recEvent src) s) (exec (.recEvent src)) = exec (.recEvent src) s) ∧
  (∀ (a b : Source) (s : State), andThen (exec (.recEvent a) s) (exec (.recEvent b)) =
    andThen (exec (.recEvent b) s) (exec (.recEvent a)))

/-- `DRAIN`, word 0x70, answers the pending events and leaves none in the same step, so that a second one answers 0, while an event
recorded after it is pending again; nothing else changes (R133). The word is the spec's own encoding (D20); that what stands on
operand lines and in a byte stream `DRAIN` does not use is ignored by the decoder is the model's choice, log 6, and no rule of the
spec. -/
def Obligations.DrainTakesAndClears : Prop :=
  (∀ (opd : BitVec 56) (msg : List Byte), decode ⟨0x70, opd, msg⟩ = .ok .drain) ∧
  (∀ s : State, ∃ t, exec .drain s = .next t ∧ OnlyRes s t (.events s.readEv) ∧ t.ev = 0x00 ∧
    { t with ev := s.ev, env := s.env } = s ∧ SameBytes s t ∧
    (∃ u, exec .drain t = .next u ∧ OnlyRes t u (.events 0x00) ∧ SameBlock t u) ∧
    ∀ src, ∃ u, exec (.recEvent src) t = .next u ∧ u.ev.toNat = 2 ^ src.code.toNat)

/-- After a `DRAIN`, recording any list of sources and draining answers the union of their bits, and the drain after that answers
0 (R134): no event is lost and none is reported twice. -/
def Obligations.DrainAnswersTheUnionOfTheRecordedEvents : Prop :=
  ∀ (srcs : List Source) (s t : State), exec .drain s = .next t → ∃ u v w e, recordAll srcs t = .next u ∧
    exec .drain u = .next v ∧ v.env.res = .events e ∧
    (∀ k, e.getLsbD k = srcs.any (fun src => decide (src.code.toNat = k))) ∧
    exec .drain v = .next w ∧ w.env.res = .events 0x00

/-! ## Scheduler -/

/-- `ARM t, I` with I at least 1 arms timer t with interval and count I, keeps its flag and touches no other timer and no other
register; with I = 0 it is refused (R141; restart of an armed timer D11, refusal D12). -/
def Obligations.ArmLoadsTheTimer : Prop :=
  (∀ (u : TimerId) (I : Word) (s : State), I ≠ 0 → ∃ t, exec (.arm u I) s = .next t ∧
    t.timer u = ⟨true, I, I, (s.timer u).flag⟩ ∧ (∀ v, v ≠ u → t.timer v = s.timer v) ∧
    { t with tel := s.tel, ackreq := s.ackreq, ackwait := s.ackwait, env := s.env } = s ∧ SameBytes s t ∧
    OnlyRes s t .none) ∧
  (∀ (u : TimerId) (s : State), exec (.arm u 0) s = .refused (.intervalZero u))

/-- `DISARM t` clears the armed bit and the count of timer t, keeps its interval and its flag, and touches nothing else (R142,
D11, D13). -/
def Obligations.DisarmStopsTheTimer : Prop :=
  ∀ (u : TimerId) (s : State), ∃ t, exec (.disarm u) s = .next t ∧
    t.timer u = ⟨false, (s.timer u).interval, 0, (s.timer u).flag⟩ ∧ (∀ v, v ≠ u → t.timer v = s.timer v) ∧
    { t with tel := s.tel, ackreq := s.ackreq, ackwait := s.ackwait, env := s.env } = s ∧ SameBytes s t ∧
    OnlyRes s t .none

/-- `REARM t, I` with I at least 1 is `DISARM t` then `ARM t, I` in one step: the timer restarts its phase with interval I
whatever count was left, even at an unchanged interval; with I = 0 it is refused (R143, D12). -/
def Obligations.RearmRestartsThePhase : Prop :=
  (∀ (u : TimerId) (I : Word) (s : State), I ≠ 0 → ∃ t, exec (.rearm u I) s = .next t ∧
    andThen (exec (.disarm u) s) (exec (.arm u I)) = .next t ∧
    t.timer u = ⟨true, I, I, (s.timer u).flag⟩ ∧ (∀ v, v ≠ u → t.timer v = s.timer v) ∧
    { t with tel := s.tel, ackreq := s.ackreq, ackwait := s.ackwait, env := s.env } = s ∧ SameBytes s t ∧
    OnlyRes s t .none) ∧
  (∀ (u : TimerId) (s : State), exec (.rearm u 0) s = .refused (.intervalZero u))

/-- `TICK`, with no flag pending: each timer that is not armed is untouched, an armed one counts down by 1, and one whose count
comes to 0 sets its flag and reloads (the two periodic timers) or is no longer armed (the one-shot `ACKWAIT`); nothing else
changes (R144, R31; D10, D14, D16). -/
def Obligations.TickAdvancesEveryArmedTimer : Prop :=
  ∀ s : State, s.anyFlag = false → ∃ t, exec .tick s = .next t ∧
    { t with tel := s.tel, ackreq := s.ackreq, ackwait := s.ackwait, env := s.env } = s ∧ SameBytes s t ∧
    OnlyRes s t .none ∧
    ∀ u : TimerId,
      ((s.timer u).armed = false → t.timer u = s.timer u) ∧
      ((s.timer u).armed = true → 2 ≤ (s.timer u).count.toNat →
        (t.timer u).count.toNat = (s.timer u).count.toNat - 1 ∧ { t.timer u with count := (s.timer u).count } = s.timer u) ∧
      ((s.timer u).armed = true → (s.timer u).count.toNat = 1 →
        (t.timer u).flag = true ∧ (t.timer u).interval = (s.timer u).interval ∧
        (u ≠ .ackwait → (t.timer u).armed = true ∧ (t.timer u).count = (s.timer u).interval) ∧
        (u = .ackwait → (t.timer u).armed = false ∧ (t.timer u).count = 0))

/-- A timer armed with I and left alone: n time units later a periodic timer has expired at each multiple of I and has
`I - n % I` left; the one-shot timer has `I - n` left before its one expiry at I and is not armed from then on (R147, derived
there from R141, R144). The first clause says that `TICK` moves every timer by this step. -/
def Obligations.TimerExpiresEveryInterval : Prop :=
  (∀ s t : State, s.anyFlag = false → exec .tick s = .next t →
    ∀ u, t.timer u = (s.timer u).tick (timerMode u)) ∧
  (∀ (u : TimerId) (T : Timer) (I : Word) (n : Nat), I ≠ 0 →
    let T' := (Timer.tick (timerMode u))^[n] (T.load I)
    (u ≠ .ackwait → T'.armed = true ∧ T'.interval = I ∧ T'.count.toNat = I.toNat - n % I.toNat ∧
      T'.flag = (T.flag || decide (I.toNat ≤ n))) ∧
    (u = .ackwait → T'.interval = I ∧
      (n < I.toNat → T'.armed = true ∧ T'.count.toNat = I.toNat - n ∧ T'.flag = T.flag) ∧
      (I.toNat ≤ n → T'.armed = false ∧ T'.count = 0 ∧ T'.flag = true)))

/-! ## Sequencer and receive path -/

/-- `POLL` runs the service of the first pending flag in the order `ACKWAIT`, `ACKREQ`, `TEL`, and with no flag pending it does
nothing (R151, R152, D15); in a valid configuration it always completes. -/
def Obligations.PollServesByPriority : Prop :=
  ∀ s : State,
    (s.ackwait.flag = true → exec .poll s = exec .svcwait s) ∧
    (s.ackwait.flag = false → s.ackreq.flag = true → exec .poll s = exec .svcreq s) ∧
    (s.ackwait.flag = false → s.ackreq.flag = false → s.tel.flag = true → exec .poll s = exec .svctel s) ∧
    (s.anyFlag = false → ∃ t, exec .poll s = .next t ∧ SameBlock s t ∧ SameBytes s t ∧ OnlyRes s t .none) ∧
    (s.cfg.valid = true → ∃ t, exec .poll s = .next t ∧ ∀ u, s.nextService = some u → t.flag u = false)

/-- `SETTLE`, at most three `POLL`s, completes and leaves no flag pending (R98, R151, D29). -/
def Obligations.SettleLeavesNoFlagPending : Prop :=
  ∀ s : State, s.Inv → ∃ t, settle s = .next t ∧ t.anyFlag = false

/-- `SVCTEL` with its flag set: the flag is cleared, the pending events are drained into one frame with `SEQ` as it was,
`OPTIONS` and the sensor's answer; the frame goes to `TXBUF` and the transmit port; `SEQ` advances modulo 256; after a
successful send `OPTIONS` is 0x02 again, after a failed one it is kept and the notice `TXFAIL` follows; nothing else changes
(R155, R156; D19, D22; the answers are log 8). -/
def Obligations.SvctelBuildsAndSendsOneFrame : Prop :=
  ∀ s : State, s.tel.flag = true → s.txbuf.wf → ∃ (t : State) (f : Frame), exec .svctel s = .next t ∧
    exec (.enct s.cfg.senderId s.seq s.readOptions s.draw.sensor s.readEv) s = .next (s.withRes (.frame f)) ∧
    { t with seq := s.seq, options := s.options, ev := s.ev, tel := s.tel, txbuf := s.txbuf, env := s.env } = s ∧
    t.tel = { s.tel with flag := false } ∧ t.ev = 0x00 ∧ t.seq.toNat = (s.seq.toNat + 1) % 256 ∧
    (∀ k, k < 8 → memRead t .txbuf k = (frameBytes f).getD k 0) ∧
    (∀ a, 8 ≤ a → memRead t .txbuf a = memRead s .txbuf a) ∧ SameSpace s t .lut ∧ SameSpace s t .inbox ∧
    (s.draw.ok = true → t.options = 0x02 ∧ t.env.emitted = s.env.emitted ++ [.tx f]) ∧
    (s.draw.ok = false → t.options = s.options ∧ t.env.emitted = s.env.emitted ++ [.tx f, .status .txfail 0]) ∧
    t.env.res = .none ∧ t.env.pending = s.env.pending ∧
    (∀ d ds, s.env.draws = d :: ds → s.draw = d ∧ t.env.draws = ds ∧ t.env.drawCount = s.env.drawCount) ∧
    (s.env.draws = [] → t.env.draws = [] ∧ t.env.drawCount = s.env.drawCount + 1)

/-- Each service issued with its flag clear is refused (R155, R157, R166; 93 X3). -/
def Obligations.ServicesAreRefusedWithTheirFlagClear : Prop :=
  ∀ s : State,
    (s.tel.flag = false → exec .svctel s = .refused (.flagClear .tel)) ∧
    (s.ackreq.flag = false → exec .svcreq s = .refused (.flagClear .ackreq)) ∧
    (s.ackwait.flag = false → exec .svcwait s = .refused (.flagClear .ackwait))

/-- `SVCREQ` with its flag set: the flag is cleared, `OPTIONS.ACKRQ` is set for the next frame, the one-shot wait timer is armed
with `CFG.ACK_WAIT`; no frame is sent, the inbox is not cleared, nothing else changes (R157, D17). -/
def Obligations.SvcreqMarksTheNextFrameAndArmsTheWait : Prop :=
  ∀ s : State, s.ackreq.flag = true → s.cfg.ackWait ≠ 0 → ∃ t, exec .svcreq s = .next t ∧
    { t with options := s.options, ackreq := s.ackreq, ackwait := s.ackwait, env := s.env } = s ∧ SameBytes s t ∧
    OnlyRes s t .none ∧
    t.ackreq = { s.ackreq with flag := false } ∧
    t.ackwait = ⟨true, s.cfg.ackWait, s.cfg.ackWait, s.ackwait.flag⟩ ∧
    t.options.getLsbD 0 = true ∧ (∀ k, k ≠ 0 → t.options.getLsbD k = s.readOptions.getLsbD k)

/-- `RXD` with `LEN` = 3 stores the three bytes and marks the inbox valid, whatever it held; with any other length it changes
nothing; in both cases nothing else changes (R158, D18). -/
def Obligations.RxdStoresThreeByteDatagramsOnly : Prop :=
  ∀ (len : Half) (d0 d1 d2 : Byte) (s : State), s.inbox.wf → ∃ t, exec (.rxd len d0 d1 d2) s = .next t ∧ OnlyRes s t .none ∧
    { t with inbox := s.inbox, inboxValid := s.inboxValid, env := s.env } = s ∧ SameSpace s t .lut ∧ SameSpace s t .txbuf ∧
    (∀ a, 3 ≤ a → memRead t .inbox a = memRead s .inbox a) ∧
    (len.toNat = 3 → t.inboxValid = true ∧ memRead t .inbox 0 = d0 ∧ memRead t .inbox 1 = d1 ∧ memRead t .inbox 2 = d2) ∧
    (len.toNat ≠ 3 → SameBlock s t ∧ SameBytes s t)

/-! ## Retry/Backoff State Machine -/

/-- `SVCWAIT` with its flag set, a matching inbox and `RETRY_COUNT` = 0: the inbox is cleared and the notice `ACKED` emitted; no
timer but the flag, and no other register, changes (R166, R167 (a): "no timer change (idempotent)"; D34). -/
def Obligations.SvcwaitMatchWhileHealthyOnlyClearsTheInbox : Prop :=
  ∀ s : State, s.ackwait.flag = true → exec .matchInbox s = .next (s.withRes (.matched true)) → s.inbox.wf →
    s.retryCount = 0 → ∃ t, exec .svcwait s = .next t ∧
    { t with ackwait := s.ackwait, inbox := s.inbox, inboxValid := s.inboxValid, env := s.env } = s ∧
    t.ackwait = { s.ackwait with flag := false } ∧ t.inboxValid = false ∧
    (∀ k, k < 3 → memRead t .inbox k = 0x00) ∧ (∀ a, 3 ≤ a → memRead t .inbox a = memRead s .inbox a) ∧
    SameSpace s t .lut ∧ SameSpace s t .txbuf ∧
    t.env = { s.env with res := .none, emitted := s.env.emitted ++ [.status .acked 0] }

/-- `SVCWAIT` with its flag set, a matching inbox and `RETRY_COUNT` > 0: besides clearing the inbox, the count is 0 again, both
periodic timers are rearmed at their base values and the two interval registers hold them (R166, R167; D34). -/
def Obligations.SvcwaitMatchWhileDegradedReturnsToHealthy : Prop :=
  ∀ s : State, s.ackwait.flag = true → exec .matchInbox s = .next (s.withRes (.matched true)) → s.inbox.wf →
    s.retryCount ≠ 0 → s.cfg.baseTel ≠ 0 → s.cfg.baseAck ≠ 0 → ∃ t, exec .svcwait s = .next t ∧
    { t with
      retryCount := s.retryCount, ackInterval := s.ackInterval, pktInterval := s.pktInterval, tel := s.tel,
      ackreq := s.ackreq, ackwait := s.ackwait, inbox := s.inbox, inboxValid := s.inboxValid, env := s.env } = s ∧
    t.retryCount = 0 ∧ t.pktInterval = s.cfg.baseTel ∧ t.ackInterval = s.cfg.baseAck ∧
    t.tel = ⟨true, s.cfg.baseTel, s.cfg.baseTel, s.tel.flag⟩ ∧
    t.ackreq = ⟨true, s.cfg.baseAck, s.cfg.baseAck, s.ackreq.flag⟩ ∧
    t.ackwait = { s.ackwait with flag := false } ∧ t.inboxValid = false ∧
    (∀ k, k < 3 → memRead t .inbox k = 0x00) ∧ (∀ a, 3 ≤ a → memRead t .inbox a = memRead s .inbox a) ∧
    SameSpace s t .lut ∧ SameSpace s t .txbuf ∧
    t.env = { s.env with res := .none, emitted := s.env.emitted ++ [.status .acked 0] }

/-- `SVCWAIT` with its flag set and no match: `RETRY_COUNT` is incremented up to `CFG.RETRY_MAX`, `OPTIONS.RETRY` is set, both
periodic timers are rearmed at `CFG.BASE_ACK + CFG.BASE_ACK * RETRY_COUNT` of the new count, the interval registers hold it, the
inbox is left as it is and the notice `RETRYING` carries the new count (R166, R168, R169; D7, D18). -/
def Obligations.SvcwaitNoMatchBacksOff : Prop :=
  ∀ s : State, s.ackwait.flag = true → exec .matchInbox s = .next (s.withRes (.matched false)) → s.cfg.valid = true →
    ∃ (t : State) (I : Word), exec .svcwait s = .next t ∧
    { t with
      options := s.options, retryCount := s.retryCount, ackInterval := s.ackInterval, pktInterval := s.pktInterval,
      tel := s.tel, ackreq := s.ackreq, ackwait := s.ackwait, env := s.env } = s ∧ SameBytes s t ∧
    t.retryCount.toNat = min (s.retryCount.toNat + 1) s.cfg.retryMax.toNat ∧
    t.options.getLsbD 2 = true ∧ (∀ k, k ≠ 2 → t.options.getLsbD k = s.readOptions.getLsbD k) ∧
    I.toNat = s.cfg.baseAck.toNat + s.cfg.baseAck.toNat * t.retryCount.toNat ∧
    t.pktInterval = I ∧ t.ackInterval = I ∧
    t.tel = ⟨true, I, I, s.tel.flag⟩ ∧ t.ackreq = ⟨true, I, I, s.ackreq.flag⟩ ∧
    t.ackwait = { s.ackwait with flag := false } ∧
    t.env = { s.env with res := .none, emitted := s.env.emitted ++ [.status .retrying t.retryCount] }

/-- "A single acknowledgement satisfies exactly one wait" (R174 (d), derived there from R166, R167, R158): a `SVCWAIT` that reports
`ACKED` leaves the inbox not valid; every operation but an `RXD` with `LEN` = 3 keeps it so, and `MATCH` then answers 0; and a
`SVCWAIT` that finds it so reports `RETRYING`. That an inbox which is not valid never matches is D18. -/
def Obligations.OneAcknowledgementSatisfiesOneWait : Prop :=
  (∀ s t : State, exec .svcwait s = .next t → t.env.emitted = s.env.emitted ++ [.status .acked 0] → t.inboxValid = false) ∧
  (∀ (i : Instr) (u v : State), u.inboxValid = false → (∀ len d0 d1 d2, i = .rxd len d0 d1 d2 → len.toNat ≠ 3) →
    exec i u = .next v → v.inboxValid = false ∧ exec .matchInbox v = .next (v.withRes (.matched false))) ∧
  (∀ u v : State, u.inboxValid = false → exec .svcwait u = .next v →
    v.env.emitted = u.env.emitted ++ [.status .retrying v.retryCount])

/-! ## The whole machine -/

/-- Each register but the timers' `ARMED`, `INTERVAL` and `COUNT` (see `TimersHaveOnlyTheirNamedWriters`) has only the writers its
rule names: the configuration none (R32), `SEQ` and `TXBUF` the telemetry service (R21,
R35), `OPTIONS` the services (R22), `EV` `REC`, `DRAIN` and the telemetry service (R23), `RETRY_COUNT` and the interval registers
the wait service (R24, R25), the inbox `RXD` and the wait service (R29, R34), `LUT` `LUTGEN` (R33); a timer flag is set by `TICK`
and cleared by its service only (R28). A service runs by its own operation or inside `POLL`. -/
def Obligations.RegistersHaveOnlyTheirNamedWriters : Prop :=
  ∀ (i : Instr) (s t : State), exec i s = .next t →
    t.cfg = s.cfg ∧
    (t.seq ≠ s.seq ∨ t.txbuf ≠ s.txbuf → Serves i s .tel) ∧
    (t.options ≠ s.options → ∃ u, Serves i s u) ∧
    (t.ev ≠ s.ev → (∃ src, i = .recEvent src) ∨ i = .drain ∨ Serves i s .tel) ∧
    (t.retryCount ≠ s.retryCount ∨ t.ackInterval ≠ s.ackInterval ∨ t.pktInterval ≠ s.pktInterval → Serves i s .ackwait) ∧
    (t.inbox ≠ s.inbox ∨ t.inboxValid ≠ s.inboxValid → (∃ len d0 d1 d2, i = .rxd len d0 d1 d2) ∨ Serves i s .ackwait) ∧
    (t.lut ≠ s.lut → i = .lutgen) ∧
    (∀ u, s.flag u = false → t.flag u = true → i = .tick) ∧
    (∀ u, s.flag u = true → t.flag u = false → Serves i s u)

/-- In a valid configuration every operation completes, but for the refusals R180 names: `ARM`/`REARM` with interval 0 and a
service with its flag clear. (Reserved words are no instruction.) -/
def Obligations.EveryOperationCompletesOrIsRefusedByName : Prop :=
  ∀ (i : Instr) (s : State), s.cfg.valid = true →
    (∃ t, exec i s = .next t) ∨
    (∃ u, (i = .arm u 0 ∨ i = .rearm u 0) ∧ exec i s = .refused (.intervalZero u)) ∨
    (∃ u, i = serviceOf u ∧ s.flag u = false ∧ exec i s = .refused (.flagClear u))

/-- An operation that completes sends at most one frame; a sent frame carries `SEQ` as it was, and `SEQ` is one more after it,
modulo 256; when none is sent `SEQ` stays: consecutive sends carry consecutive numbers (R160, derived there from R155; D19). -/
def Obligations.ConsecutiveFramesCarryConsecutiveNumbers : Prop :=
  ∀ (i : Instr) (s t : State), exec i s = .next t → ∃ new : List Output, t.env.emitted = s.env.emitted ++ new ∧
    ((t.seq = s.seq ∧ ∀ f : Frame, .tx f ∉ new) ∨
      ∃ f rest, new = .tx f :: rest ∧ (∀ g : Frame, .tx g ∉ rest) ∧ f.sequence = s.seq ∧
        t.seq.toNat = (s.seq.toNat + 1) % 256)

/-- Every frame the block sends has option bit 1 set and bits 7:3 clear, event bit 7 clear (R93, R94, D23), and carries the
checksum of its first seven bytes under the table of that moment (R116: "always recomputed immediately before send"). -/
def Obligations.SentFramesAreWellFormed : Prop :=
  ∀ (i : Instr) (s t : State), exec i s = .next t → ∃ new : List Output, t.env.emitted = s.env.emitted ++ new ∧
    ∀ f : Frame, .tx f ∈ new →
      f.options.getLsbD 1 = true ∧ f.options.extractLsb' 3 5 = 0 ∧ f.events.getLsbD 7 = false ∧
      exec (.crc8 ((frameBytes f).take 7)) s = .next (s.withRes (.checksum f.checksum))

/-- A byte space in canonical form: a read after a write answers the written byte at its index and the old byte elsewhere, the
form is kept, and contents that read alike are equal (R13, R60; the canonical form is log 15). -/
def Obligations.ByteSpaceReadAfterWrite : Prop :=
  (∀ (m : Memory) (a b : Nat) (v : Byte), m.wf → (m.write a v).wf ∧ (m.write a v).read b = if a = b then v else m.read b) ∧
  (∀ m n : Memory, m.wf → n.wf → (∀ a, m.read a = n.read a) → m = n)

/-- The reset state of every legal record meets the invariants. -/
def Obligations.ResetMeetsTheInvariants : Prop :=
  ∀ (c : Cfg) (e : Env), c.valid = true → (State.resetIn c e).Inv ∧ (State.resetIn c e).LoopInv ∧
    (c.baseTel.toNat ∣ c.baseAck.toNat → (State.resetIn c e).InPhase)

/-- Whatever is presented, a step keeps R41 (a), (b), (c), (g), (h), the legal configuration, the ceiling of `RETRY_COUNT` and the
canonical form of the byte spaces. Derived from the operations' rules. -/
def Obligations.EveryStepKeepsTheInvariant : Prop :=
  ∀ s t : State, s.Inv → step s = .next t → t.Inv

/-- In a sequencer-only run a step keeps R41 (d), (e) and the interval law of R170 (R41 (f)): `RETRY_COUNT` = 0 means intervals 60
and 10 (the base constants), `RETRY_COUNT` = n > 0 means both are `BASE_ACK + BASE_ACK * n`. The premise that `CFG.RETRY_MAX` is
not 0 is log 18. -/
def Obligations.SequencerOnlyStepKeepsTheIntervalLaw : Prop :=
  ∀ s t : State, s.Inv → s.LoopInv → s.cfg.retryMax ≠ 0 → sequencerOnly s = true → step s = .next t → t.LoopInv

/-- In a sequencer-only run with `CFG.BASE_ACK` a multiple of `CFG.BASE_TEL` the two periodic timers stay in phase, and every
expiry of `T[ACKREQ]` coincides with an expiry of `T[TEL]` (R159 (a), derived there; log 18). -/
def Obligations.RequestAndTelemetryExpireTogether : Prop :=
  ∀ s t : State, s.Inv → s.LoopInv → s.InPhase → s.cfg.retryMax ≠ 0 → s.cfg.baseTel.toNat ∣ s.cfg.baseAck.toNat →
    sequencerOnly s = true → step s = .next t →
    (t.cfg.baseTel.toNat ∣ t.cfg.baseAck.toNat → t.InPhase) ∧
    (s.ackreq.flag = false → t.ackreq.flag = true → t.tel.flag = true)

/-- The block runs forever ("the original system runs forever", R162, R194): from a state that meets the invariant, with any list
of legal inputs presented (ticks, events, datagrams, polls, bench operations, resets; log 1, log 2), no number of steps meets a
refusal, and the invariant holds all along (R180: "none of which the sequencer ever produces"). -/
def Obligations.PresentedRunsNeverStop : Prop :=
  ∀ (n : Nat) (s : State), s.Inv → (∀ x ∈ s.env.pending, presentable x = true) → SafeFor n s

/-! ## Beside the statements above -/

/-- The words of R87's table (D20) that carry operands on the bus, or that no statement above writes out, decode to their operations
with the operands read from their lines: the interval of `ARM` and `REARM`; `{b0, b1, b2}` of `DECA`, byte 0 in the high bits (R86);
`LEN` and `{d0, d1, d2}` of `RXD`. That these stand on the low lines with 0 above them, and `LEN` above `d0`, is the model's choice,
log 5. -/
def Obligations.OperandWordsDecode : Prop :=
  (∀ I : Word,
    decode ⟨0x80, (0 : BitVec 24) ++ I, []⟩ = .ok (.arm .tel I) ∧
    decode ⟨0x81, (0 : BitVec 24) ++ I, []⟩ = .ok (.arm .ackreq I) ∧
    decode ⟨0x82, (0 : BitVec 24) ++ I, []⟩ = .ok (.arm .ackwait I) ∧
    decode ⟨0xA0, (0 : BitVec 24) ++ I, []⟩ = .ok (.rearm .tel I) ∧
    decode ⟨0xA1, (0 : BitVec 24) ++ I, []⟩ = .ok (.rearm .ackreq I) ∧
    decode ⟨0xA2, (0 : BitVec 24) ++ I, []⟩ = .ok (.rearm .ackwait I)) ∧
  (decode ⟨0x90, 0, []⟩ = .ok (.disarm .tel) ∧ decode ⟨0x91, 0, []⟩ = .ok (.disarm .ackreq) ∧
    decode ⟨0x92, 0, []⟩ = .ok (.disarm .ackwait)) ∧
  (∀ b0 b1 b2 : Byte, decode ⟨0x40, (0 : BitVec 32) ++ (b0 ++ b1 ++ b2), []⟩ = .ok (.deca b0 b1 b2)) ∧
  (∀ (len : Half) (d0 d1 d2 : Byte),
    decode ⟨0xC0, (0 : BitVec 16) ++ (len ++ d0 ++ d1 ++ d2), []⟩ = .ok (.rxd len d0 d1 d2))

/-- `CFG.TABLE[i]` is the entry generated from `CFG.POLY` when the record gives no table, and the given entry when it does, and
`LUT` holds it after reset (R111, R112, D4; log 12). -/
def Obligations.TableIsGivenOrGenerated : Prop :=
  ∀ (c : Cfg) (i : Byte),
    (c.table = none → tableEntry c i = genEntry c.poly i ∧ memRead (State.resetWith c) .lut i.toNat = genEntry c.poly i) ∧
    (∀ v : Vector Byte 256, c.table = some v →
      tableEntry c i = v[i.toNat]'i.isLt ∧ memRead (State.resetWith c) .lut i.toNat = v[i.toNat]'i.isLt)

/-- The timers' `ARMED`, `INTERVAL` and `COUNT` have only the writers R30 names (a timer's registers are D14): `INTERVAL` changes
only when that timer is loaded, by `ARM`, `REARM`, or the services that perform them; `ARMED` is set only by a load and cleared only
by `DISARM` or by the `TICK` in which the one-shot timer expires; `COUNT` changes only by a load, `DISARM` or `TICK`. -/
def Obligations.TimersHaveOnlyTheirNamedWriters : Prop :=
  ∀ (i : Instr) (s t : State) (u : TimerId), exec i s = .next t →
    ((t.timer u).interval ≠ (s.timer u).interval → Loads i s u) ∧
    ((s.timer u).armed = false → (t.timer u).armed = true → Loads i s u) ∧
    ((s.timer u).armed = true → (t.timer u).armed = false → i = .disarm u ∨ (i = .tick ∧ u = .ackwait)) ∧
    ((t.timer u).count ≠ (s.timer u).count → Loads i s u ∨ i = .disarm u ∨ i = .tick)

/-- `SVCWAIT` completes whenever its flag is set and the configuration is legal (R166, R10). The flag is cleared and no frame is sent;
an inbox that is valid and begins with the identifier's low byte, then its high byte, makes the count 0, is no longer valid after it
and is reported `ACKED`; any other inbox is left as it is, the count goes up to its ceiling and is reported `RETRYING` (R122, R167,
R168; D7, D18, D34). -/
def Obligations.SvcwaitCompletes : Prop :=
  ∀ s : State, s.ackwait.flag = true → s.cfg.valid = true → ∃ t, exec .svcwait s = .next t ∧
    t.ackwait = { s.ackwait with flag := false } ∧ t.seq = s.seq ∧ SameSpace s t .txbuf ∧
    (s.inboxValid = true ∧ (memRead s .inbox 0).toNat = s.cfg.senderId.toNat % 256 ∧
        (memRead s .inbox 1).toNat = s.cfg.senderId.toNat / 256 →
      t.retryCount = 0 ∧ t.inboxValid = false ∧ t.options = s.options ∧
      t.env.emitted = s.env.emitted ++ [.status .acked 0]) ∧
    (¬ (s.inboxValid = true ∧ (memRead s .inbox 0).toNat = s.cfg.senderId.toNat % 256 ∧
        (memRead s .inbox 1).toNat = s.cfg.senderId.toNat / 256) →
      t.retryCount.toNat = min (s.retryCount.toNat + 1) s.cfg.retryMax.toNat ∧ t.inboxValid = s.inboxValid ∧
      SameSpace s t .inbox ∧ t.options.getLsbD 2 = true ∧
      t.env.emitted = s.env.emitted ++ [.status .retrying t.retryCount])

/-- The seven sources, no more, and the bit of each: the two switches 0 and 1, up 2, down 3, left 4, right 5, fire 6. One `REC` of a
source completes, makes exactly that bit of the pending events 1 and changes nothing else (R131). -/
def Obligations.SevenSourcesHaveTheirBits : Prop :=
  (∀ src : Source, ∃! n : Nat, (src, n) ∈ [(Source.switchA, 0), (.switchB, 1), (.padUp, 2), (.padDown, 3), (.padLeft, 4),
    (.padRight, 5), (.fire, 6)]) ∧
  (∀ p ∈ [(Source.switchA, 0), (.switchB, 1), (.padUp, 2), (.padDown, 3), (.padLeft, 4), (.padRight, 5), (.fire, 6)],
    ∀ s : State, ∃ t, exec (.recEvent p.1) s = .next t ∧
      (∀ k, t.readEv.getLsbD k = (decide (k = p.2) || s.readEv.getLsbD k)) ∧
      { t with ev := s.ev, env := s.env } = s ∧ SameBytes s t ∧ OnlyRes s t .none)

/-- The telemetry frame, eight bytes, byte k at `F[63-8k : 56-8k]`: `senderId[15:8]`, `senderId[7:0]`, the sequence number, the options,
`reading[15:8]`, `reading[7:0]`, the events, and the `CRC8` of bytes 0 to 6 in this order. `ENCT` builds it for any operands, and every
frame that leaves the block is one, of the sender identifier, `SEQ`, `OPTIONS` (bit 1 set, bits 7:3 sent as 0: R83), some reading
and the pending events (bit 7 sent as 0: R84) (R81). -/
def Obligations.OutboundFrameHasTheTabledBytes : Prop :=
  (∀ (senderId : Half) (sequence options : Byte) (reading : Half) (events : Byte) (s : State), ∃ (f : Frame) (t : State),
    exec (.enct senderId sequence options reading events) s = .next t ∧ t.env.res = .frame f ∧ (frameBytes f).length = 8 ∧
    (∀ k, k < 8 → (frameBytes f).getD k 0 = (frameWord f).extractLsb' (56 - 8 * k) 8) ∧
    (frameWord f).extractLsb' 56 8 = senderId.extractLsb' 8 8 ∧ (frameWord f).extractLsb' 48 8 = senderId.extractLsb' 0 8 ∧
    (frameWord f).extractLsb' 40 8 = sequence ∧ (frameWord f).extractLsb' 32 8 = options ∧
    (frameWord f).extractLsb' 24 8 = reading.extractLsb' 8 8 ∧ (frameWord f).extractLsb' 16 8 = reading.extractLsb' 0 8 ∧
    (frameWord f).extractLsb' 8 8 = events ∧
    exec (.crc8 [senderId.extractLsb' 8 8, senderId.extractLsb' 0 8, sequence, options, reading.extractLsb' 8 8,
      reading.extractLsb' 0 8, events]) s = .next (s.withRes (.checksum ((frameWord f).extractLsb' 0 8)))) ∧
  (∀ (i : Instr) (s t : State), exec i s = .next t → ∃ new : List Output, t.env.emitted = s.env.emitted ++ new ∧
    ∀ f : Frame, .tx f ∈ new → f.options.getLsbD 1 = true ∧ f.options.extractLsb' 3 5 = 0 ∧ f.events.getLsbD 7 = false ∧
      ∃ reading : Half, exec (.enct s.cfg.senderId s.seq s.readOptions reading s.readEv) s = .next (s.withRes (.frame f)))
end

