-- ==== Sys2Proof/Laws/Word.lean ====
section
/-! SUPPORT. Bit facts of the bytes and fields: halves, hardwired bits, the fields of the operand bus. -/

namespace Sys2Proof

open Sys2Proof.Machine

@[simp] theorem hiByte_toNat (v : Half) : (hiByte v).toNat = v.toNat / 256 := by
  simp only [hiByte, BitVec.extractLsb'_toNat, Nat.shiftRight_eq_div_pow]
  have := v.isLt
  omega

@[simp] theorem loByte_toNat (v : Half) : (loByte v).toNat = v.toNat % 256 := by
  simp [loByte, BitVec.extractLsb'_toNat]

/-- A 16-bit field is determined by its two bytes (R90 (a)). -/
theorem joinBytes_hi_lo (v : Half) : joinBytes (hiByte v) (loByte v) = v := by
  apply BitVec.eq_of_getLsbD_eq
  intro i hi
  simp only [joinBytes, hiByte, loByte, BitVec.getLsbD_extractLsb', BitVec.getLsbD_append]
  by_cases h : i < 8
  · simp [h]
  · simp [h, show i - 8 < 8 by omega, show 8 + (i - 8) = i by omega]

theorem hiByte_joinBytes (a b : Byte) : hiByte (joinBytes a b) = a := by
  apply BitVec.eq_of_toNat_eq
  rw [hiByte_toNat]
  simp only [joinBytes, BitVec.toNat_append, Nat.shiftLeft_eq, Nat.or_comm]
  rw [Nat.or_comm, Nat.mul_comm, ← Nat.two_pow_add_eq_or_of_lt b.isLt]
  have := b.isLt
  omega

theorem loByte_joinBytes (a b : Byte) : loByte (joinBytes a b) = b := by
  apply BitVec.eq_of_toNat_eq
  rw [loByte_toNat]
  simp only [joinBytes, BitVec.toNat_append, Nat.shiftLeft_eq]
  rw [Nat.mul_comm, ← Nat.two_pow_add_eq_or_of_lt b.isLt]
  have := b.isLt
  omega

@[simp] theorem hardwireOptions_idem (v : Byte) : hardwireOptions (hardwireOptions v) = hardwireOptions v := by
  revert v; decide

@[simp] theorem hardwireEv_idem (v : Byte) : hardwireEv (hardwireEv v) = hardwireEv v := by
  revert v; decide

@[simp] theorem hardwireEv_zero : hardwireEv 0#8 = 0#8 := by decide

theorem hardwireOptions_bits (v : Byte) :
    (hardwireOptions v).getLsbD 1 = true ∧ (hardwireOptions v).extractLsb' 3 5 = 0 := by
  revert v; decide

theorem hardwireEv_bit7 (v : Byte) : (hardwireEv v).getLsbD 7 = false := by
  revert v; decide

/-- A byte with the hardwired bits of `OPTIONS` is read as it is. -/
theorem hardwireOptions_of_bits {v : Byte} (h : v.getLsbD 1 = true ∧ v.extractLsb' 3 5 = 0) : hardwireOptions v = v := by
  revert v; decide

/-- A byte with bit 7 clear is read as it is. -/
theorem hardwireEv_of_bit7 {v : Byte} (h : v.getLsbD 7 = false) : hardwireEv v = v := by
  revert v; decide

/-- Clearing the per-send bits leaves the ordinary options byte (R155). -/
theorem clear_perSend (v : Byte) : hardwireOptions (hardwireOptions v &&& ~~~(optAckrq ||| optRetry)) = 0x02 := by
  revert v; decide

/-! ## The operand bus (R86): each field is read back from where the encoder puts it -/

theorem opdEnct_senderId (a : Half) (b c : Byte) (d : Half) (e : Byte) :
    (opdEnct a b c d e).extractLsb' 40 16 = a := by
  apply BitVec.eq_of_getLsbD_eq
  intro i hi
  simp only [opdEnct, BitVec.getLsbD_extractLsb', BitVec.getLsbD_append, hi, decide_true, Bool.true_and]
  repeat rw [if_neg (by omega)]
  congr 1
  omega

theorem opdEnct_sequence (a : Half) (b c : Byte) (d : Half) (e : Byte) :
    (opdEnct a b c d e).extractLsb' 32 8 = b := by
  apply BitVec.eq_of_getLsbD_eq
  intro i hi
  simp only [opdEnct, BitVec.getLsbD_extractLsb', BitVec.getLsbD_append, hi, decide_true, Bool.true_and]
  repeat first | rw [if_neg (by omega)] | rw [if_pos (by omega)]
  congr 1
  omega

theorem opdEnct_options (a : Half) (b c : Byte) (d : Half) (e : Byte) :
    (opdEnct a b c d e).extractLsb' 24 8 = c := by
  apply BitVec.eq_of_getLsbD_eq
  intro i hi
  simp only [opdEnct, BitVec.getLsbD_extractLsb', BitVec.getLsbD_append, hi, decide_true, Bool.true_and]
  repeat first | rw [if_neg (by omega)] | rw [if_pos (by omega)]
  congr 1
  omega

theorem opdEnct_reading (a : Half) (b c : Byte) (d : Half) (e : Byte) :
    (opdEnct a b c d e).extractLsb' 8 16 = d := by
  apply BitVec.eq_of_getLsbD_eq
  intro i hi
  simp only [opdEnct, BitVec.getLsbD_extractLsb', BitVec.getLsbD_append, hi, decide_true, Bool.true_and]
  repeat first | rw [if_neg (by omega)] | rw [if_pos (by omega)]
  congr 1
  omega

theorem opdEnct_events (a : Half) (b c : Byte) (d : Half) (e : Byte) :
    (opdEnct a b c d e).extractLsb' 0 8 = e := by
  apply BitVec.eq_of_getLsbD_eq
  intro i hi
  simp only [opdEnct, BitVec.getLsbD_extractLsb', BitVec.getLsbD_append, hi, decide_true, Bool.true_and]
  repeat first | rw [if_neg (by omega)] | rw [if_pos (by omega)]
  congr 1
  omega

theorem opdDeca_b0 (a b c : Byte) :
    (opdDeca a b c).extractLsb' 16 8 = a := by
  apply BitVec.eq_of_getLsbD_eq
  intro i hi
  simp only [opdDeca, BitVec.getLsbD_extractLsb', BitVec.getLsbD_append, hi, decide_true, Bool.true_and]
  repeat first | rw [if_neg (by omega)] | rw [if_pos (by omega)]
  congr 1
  omega

theorem opdDeca_b1 (a b c : Byte) :
    (opdDeca a b c).extractLsb' 8 8 = b := by
  apply BitVec.eq_of_getLsbD_eq
  intro i hi
  simp only [opdDeca, BitVec.getLsbD_extractLsb', BitVec.getLsbD_append, hi, decide_true, Bool.true_and]
  repeat first | rw [if_neg (by omega)] | rw [if_pos (by omega)]
  congr 1
  omega

theorem opdDeca_b2 (a b c : Byte) :
    (opdDeca a b c).extractLsb' 0 8 = c := by
  apply BitVec.eq_of_getLsbD_eq
  intro i hi
  simp only [opdDeca, BitVec.getLsbD_extractLsb', BitVec.getLsbD_append, hi, decide_true, Bool.true_and]
  repeat first | rw [if_neg (by omega)] | rw [if_pos (by omega)]
  congr 1
  omega

theorem opdInterval_interval (I : Word) :
    (opdInterval I).extractLsb' 0 32 = I := by
  apply BitVec.eq_of_getLsbD_eq
  intro i hi
  simp only [opdInterval, BitVec.getLsbD_extractLsb', BitVec.getLsbD_append, hi, decide_true, Bool.true_and]
  repeat first | rw [if_neg (by omega)] | rw [if_pos (by omega)]
  congr 1
  omega

theorem opdRxd_len (l : Half) (a b c : Byte) :
    (opdRxd l a b c).extractLsb' 24 16 = l := by
  apply BitVec.eq_of_getLsbD_eq
  intro i hi
  simp only [opdRxd, BitVec.getLsbD_extractLsb', BitVec.getLsbD_append, hi, decide_true, Bool.true_and]
  repeat first | rw [if_neg (by omega)] | rw [if_pos (by omega)]
  congr 1
  omega

theorem opdRxd_d0 (l : Half) (a b c : Byte) :
    (opdRxd l a b c).extractLsb' 16 8 = a := by
  apply BitVec.eq_of_getLsbD_eq
  intro i hi
  simp only [opdRxd, BitVec.getLsbD_extractLsb', BitVec.getLsbD_append, hi, decide_true, Bool.true_and]
  repeat first | rw [if_neg (by omega)] | rw [if_pos (by omega)]
  congr 1
  omega

theorem opdRxd_d1 (l : Half) (a b c : Byte) :
    (opdRxd l a b c).extractLsb' 8 8 = b := by
  apply BitVec.eq_of_getLsbD_eq
  intro i hi
  simp only [opdRxd, BitVec.getLsbD_extractLsb', BitVec.getLsbD_append, hi, decide_true, Bool.true_and]
  repeat first | rw [if_neg (by omega)] | rw [if_pos (by omega)]
  congr 1
  omega

theorem opdRxd_d2 (l : Half) (a b c : Byte) :
    (opdRxd l a b c).extractLsb' 0 8 = c := by
  apply BitVec.eq_of_getLsbD_eq
  intro i hi
  simp only [opdRxd, BitVec.getLsbD_extractLsb', BitVec.getLsbD_append, hi, decide_true, Bool.true_and]
  repeat first | rw [if_neg (by omega)] | rw [if_pos (by omega)]
  congr 1
  omega

end Sys2Proof
end

