-- ==== Sys2Proof/Laws/Decode.lean ====
section
/-! SUPPORT. The two nibbles of an operation word (30_encoding.md R85), and the ids they carry (R88, R89). -/

namespace Sys2Proof

@[simp] theorem opcOf_opwOf (opc arg : BitVec 4) : opcOf (opwOf opc arg) = opc := by
  revert opc arg; decide

@[simp] theorem argOf_opwOf (opc arg : BitVec 4) : argOf (opwOf opc arg) = arg := by
  revert opc arg; decide

/-- A word is its two nibbles. -/
theorem opwOf_opcOf_argOf (w : Byte) : opwOf (opcOf w) (argOf w) = w := by
  revert w; decide

@[simp] theorem timerOfArg_code (t : TimerId) : timerOfArg t.code = some t := by cases t <;> rfl

@[simp] theorem sourceOfArg_code (s : Source) : sourceOfArg s.code = some s := by cases s <;> rfl

/-- The timer an `ARG` names has that id. -/
theorem code_of_timerOfArg {arg : BitVec 4} {t : TimerId} (h : timerOfArg arg = some t) : t.code = arg := by
  revert arg t
  intro arg t
  cases t <;> revert arg <;> decide

/-- The source an `ARG` names has that id. -/
theorem code_of_sourceOfArg {arg : BitVec 4} {s : Source} (h : sourceOfArg arg = some s) : s.code = arg := by
  revert arg s
  intro arg s
  cases s <;> revert arg <;> decide

end Sys2Proof
end

