-- ==== Sys2Proof/Laws/Memory.lean ====
section
/-! SUPPORT. The laws of a byte space: a read after a write, the canonical form kept, equal reads mean equal contents. -/

namespace Sys2Proof.Machine

/-- A cell put in front of contents whose indexes all lie above it reads as its value, and elsewhere nothing changes. -/
theorem Memory.read_of_lt {m : Memory} {x : Nat} (h : ∀ c ∈ m, x < c.1) : m.read x = blankByte := by
  induction m with
  | nil => rfl
  | cons c m ih =>
    have hc := h c (by simp)
    simp only [Memory.read]
    rw [if_neg (by omega)]
    exact ih fun d hd => h d (by simp [hd])

theorem Memory.read_cons {m : Memory} {x : Nat} (v : Byte) (h : ∀ c ∈ m, x < c.1) (y : Nat) :
    (Memory.cons x v m).read y = if x = y then v else m.read y := by
  unfold Memory.cons
  split
  · next hv =>
    split
    · next e => subst e; rw [Memory.read_of_lt h, hv]
    · rfl
  · rfl

theorem Memory.wf_tail {c : Host.Cell} {m : Memory} (h : Memory.wf (c :: m)) : Memory.wf m :=
  ⟨(List.pairwise_cons.mp h.1).2, fun d hd => h.2 d (by simp [hd])⟩

theorem Memory.head_lt {c : Host.Cell} {m : Memory} (h : Memory.wf (c :: m)) : ∀ d ∈ m, c.1 < d.1 :=
  (List.pairwise_cons.mp h.1).1

/-- A cell in front of canonical contents above it keeps the canonical form. -/
theorem Memory.wf_cons {m : Memory} {x : Nat} (v : Byte) (hm : m.wf) (h : ∀ c ∈ m, x < c.1) : (Memory.cons x v m).wf := by
  unfold Memory.cons
  split
  · exact hm
  · next hv =>
    refine ⟨List.pairwise_cons.mpr ⟨h, hm.1⟩, ?_⟩
    intro d hd
    rcases List.mem_cons.mp hd with rfl | hd
    · exact hv
    · exact hm.2 d hd

theorem Memory.mem_cons {m : Memory} {x : Nat} {v : Byte} {c : Host.Cell} (h : c ∈ Memory.cons x v m) :
    c = (x, v) ∨ c ∈ m := by
  unfold Memory.cons at h
  split at h
  · exact .inr h
  · simpa using h

/-- A cell after a write is the written one or one that was there. -/
theorem Memory.mem_write {m : Memory} {x : Nat} {v : Byte} {c : Host.Cell} (h : c ∈ m.write x v) : c = (x, v) ∨ c ∈ m := by
  induction m with
  | nil => exact Memory.mem_cons h
  | cons d m ih =>
    obtain ⟨a, w⟩ := d
    simp only [Memory.write] at h
    split at h
    · exact Memory.mem_cons h
    · split at h
      · rcases Memory.mem_cons h with h | h
        · exact .inl h
        · exact .inr (by simp [h])
      · rcases List.mem_cons.mp h with h | h
        · exact .inr (by simp [h])
        · rcases ih h with h | h
          · exact .inl h
          · exact .inr (by simp [h])

/-- A write keeps the canonical form. -/
theorem Memory.wf_write {m : Memory} (hm : m.wf) (x : Nat) (v : Byte) : (m.write x v).wf := by
  induction m with
  | nil => exact Memory.wf_cons v hm (by simp)
  | cons d m ih =>
    obtain ⟨a, w⟩ := d
    simp only [Memory.write]
    split
    · next hx =>
      refine Memory.wf_cons v hm ?_
      intro c hc
      rcases List.mem_cons.mp hc with rfl | hc
      · exact hx
      · exact Nat.lt_trans hx (Memory.head_lt hm c hc)
    · split
      · next hx =>
        subst hx
        exact Memory.wf_cons v (Memory.wf_tail hm) (Memory.head_lt hm)
      · have hw := ih (Memory.wf_tail hm)
        refine ⟨List.pairwise_cons.mpr ⟨?_, hw.1⟩, ?_⟩
        · intro c hc
          rcases Memory.mem_write hc with rfl | hc
          · show a < x; omega
          · exact Memory.head_lt hm c hc
        · intro c hc
          rcases List.mem_cons.mp hc with rfl | hc
          · exact hm.2 _ (by simp)
          · exact hw.2 c hc

/-- A write inside the space keeps the contents inside it. -/
theorem Memory.within_write {m : Memory} {n x : Nat} (hm : m.within n) (hx : x < n) (v : Byte) : (m.write x v).within n := by
  intro c hc
  rcases Memory.mem_write hc with rfl | hc
  · exact hx
  · exact hm c hc

/-- The read-after-write law of a byte space in canonical form. -/
theorem Memory.read_write {m : Memory} (hm : m.wf) (x : Nat) (v : Byte) (y : Nat) :
    (m.write x v).read y = if x = y then v else m.read y := by
  induction m with
  | nil => exact Memory.read_cons v (by simp) y
  | cons d m ih =>
    obtain ⟨a, w⟩ := d
    simp only [Memory.write]
    split
    · next hx =>
      refine Memory.read_cons v ?_ y
      intro c hc
      rcases List.mem_cons.mp hc with rfl | hc
      · exact hx
      · exact Nat.lt_trans hx (Memory.head_lt hm c hc)
    · split
      · next hx =>
        subst hx
        rw [Memory.read_cons v (Memory.head_lt hm)]
        by_cases e : x = y <;> simp [Memory.read, e]
      · next hx =>
        simp only [Memory.read, ih (Memory.wf_tail hm)]
        by_cases e : a = y
        · subst e
          simp [hx]
        · simp [e]

/-- Canonical contents that read the same are the same data. -/
theorem Memory.ext_read {m n : Memory} (hm : m.wf) (hn : n.wf) (h : ∀ a, m.read a = n.read a) : m = n := by
  induction m generalizing n with
  | nil =>
    cases n with
    | nil => rfl
    | cons c n =>
      have := h c.1
      simp only [Memory.read, if_true] at this
      exact absurd this.symm (hn.2 c (by simp))
  | cons c m ih =>
    cases n with
    | nil =>
      have := h c.1
      simp only [Memory.read, if_true] at this
      exact absurd this (hm.2 c (by simp))
    | cons d n =>
      obtain ⟨a, v⟩ := c
      obtain ⟨b, w⟩ := d
      have hv : v ≠ blankByte := hm.2 (a, v) (by simp)
      have hw : w ≠ blankByte := hn.2 (b, w) (by simp)
      have hab : a = b := by
        rcases Nat.lt_trichotomy a b with hlt | rfl | hlt
        · have := h a
          rw [Memory.read_of_lt (m := (b, w) :: n)] at this
          · simp [Memory.read] at this; exact absurd this hv
          · intro c hc
            rcases List.mem_cons.mp hc with rfl | hc
            · exact hlt
            · exact Nat.lt_trans hlt (Memory.head_lt hn c hc)
        · rfl
        · have := h b
          rw [Memory.read_of_lt (m := (a, v) :: m)] at this
          · simp [Memory.read] at this; exact absurd this.symm hw
          · intro c hc
            rcases List.mem_cons.mp hc with rfl | hc
            · exact hlt
            · exact Nat.lt_trans hlt (Memory.head_lt hm c hc)
      subst hab
      have hvw : v = w := by simpa [Memory.read] using h a
      subst hvw
      rw [ih (Memory.wf_tail hm) (Memory.wf_tail hn)]
      intro y
      by_cases e : a = y
      · subst e
        rw [Memory.read_of_lt (Memory.head_lt hm), Memory.read_of_lt (Memory.head_lt hn)]
      · simpa [Memory.read, e] using h y

/-! ## Writing several bytes -/

theorem Memory.wf_writeList {m : Memory} (hm : m.wf) (x : Nat) (vs : List Byte) : (m.writeList x vs).wf := by
  induction vs generalizing m x with
  | nil => exact hm
  | cons v vs ih => exact ih (Memory.wf_write hm x v) (x + 1)

theorem Memory.within_writeList {m : Memory} {n : Nat} (hm : m.within n) {x : Nat} {vs : List Byte}
    (hx : x + vs.length ≤ n) : (m.writeList x vs).within n := by
  induction vs generalizing m x with
  | nil => exact hm
  | cons v vs ih =>
    simp only [List.length_cons] at hx
    exact ih (Memory.within_write hm (by omega) v) (by omega)

/-- What a run of writes leaves: the written bytes at their indexes, every other byte as before. -/
theorem Memory.read_writeList {m : Memory} (hm : m.wf) (x : Nat) (vs : List Byte) (y : Nat) :
    (m.writeList x vs).read y = if h : x ≤ y ∧ y < x + vs.length then vs[y - x]'(by omega) else m.read y := by
  induction vs generalizing m x with
  | nil =>
    rw [dif_neg (by simp)]
    rfl
  | cons v vs ih =>
    rw [Memory.writeList, ih (Memory.wf_write hm x v), Memory.read_write hm]
    by_cases h1 : x + 1 ≤ y ∧ y < x + 1 + vs.length
    · have h2 : x ≤ y ∧ y < x + (v :: vs).length := by simp only [List.length_cons]; omega
      rw [dif_pos h1, dif_pos h2]
      have e : y - x = (y - (x + 1)) + 1 := by omega
      simp [e]
    · rw [dif_neg h1]
      by_cases h2 : x = y
      · subst h2
        simp
      · rw [if_neg h2, dif_neg (by simp only [List.length_cons]; omega)]

end Sys2Proof.Machine
end

