-- ==== Sys2Proof/Laws/Lut.lean ====
section
/-! SUPPORT. The lookup table after its 256 writes, the generator's linearity, the checksum fold. -/

namespace Sys2Proof.Machine

theorem fillLut_wf (c : Cfg) {m : Memory} (hm : m.wf) : (fillLut c m).wf := Memory.wf_writeList hm _ _

theorem fillLut_within (c : Cfg) {m : Memory} (hm : m.within 256) : (fillLut c m).within 256 :=
  Memory.within_writeList hm (by simp)

/-- What `LUTGEN` leaves in the table: `CFG.TABLE[i]` at each index, and nothing above it (R112). -/
theorem fillLut_read (c : Cfg) {m : Memory} (hm : m.wf) (a : Nat) :
    (fillLut c m).read a = if a < 256 then tableEntry c (BitVec.ofNat 8 a) else m.read a := by
  rw [fillLut, Memory.read_writeList hm]
  by_cases h : a < 256
  · rw [dif_pos (by simpa using h), if_pos h]
    simp
  · rw [dif_neg (by simpa using h), if_neg h]

theorem fillLut_read_byte (c : Cfg) {m : Memory} (hm : m.wf) (i : Byte) : (fillLut c m).read i.toNat = tableEntry c i := by
  rw [fillLut_read c hm, if_pos i.isLt]
  simp

/-! ## The generator (R112) -/

theorem genSteps_zero (poly : Byte) (n : Nat) : genSteps poly n 0 = 0 := by
  induction n with
  | zero => rfl
  | succ n ih => simpa [genSteps, genStep] using ih

/-- `LUT[0] == 0x00` for every `CFG.POLY` (R112). -/
theorem genEntry_zero (poly : Byte) : genEntry poly 0 = 0 := genSteps_zero poly 8

/-- One step is linear over exclusive or. -/
theorem genStep_xor (poly a b : Byte) : genStep poly (a ^^^ b) = genStep poly a ^^^ genStep poly b := by
  have h : (a ^^^ b) <<< 1 = a <<< 1 ^^^ b <<< 1 := by
    apply BitVec.eq_of_getLsbD_eq
    intro i hi
    simp only [BitVec.getLsbD_shiftLeft, BitVec.getLsbD_xor]
    cases decide (i < 8) <;> cases decide (i < 1) <;> simp
  unfold genStep
  rw [h, BitVec.getLsbD_xor]
  apply BitVec.eq_of_getLsbD_eq
  intro i hi
  cases a.getLsbD 7 <;> cases b.getLsbD 7 <;>
    simp only [Bool.xor_self, Bool.false_eq_true, if_true, if_false, Bool.xor_false, Bool.xor_true,
      Bool.not_false, BitVec.getLsbD_xor] <;>
    cases (a <<< 1).getLsbD i <;> cases (b <<< 1).getLsbD i <;> cases poly.getLsbD i <;> rfl

theorem genSteps_xor (poly : Byte) (n : Nat) (a b : Byte) :
    genSteps poly n (a ^^^ b) = genSteps poly n a ^^^ genSteps poly n b := by
  induction n generalizing a b with
  | zero => rfl
  | succ n ih => simp only [genSteps, genStep_xor, ih]

theorem genSteps_succ (poly : Byte) (n : Nat) (r : Byte) : genSteps poly (n + 1) r = genStep poly (genSteps poly n r) := by
  induction n generalizing r with
  | zero => rfl
  | succ n ih => rw [genSteps, ih]; rfl

/-! ## The checksum (R113) -/

@[simp] theorem crc8_nil (lut : Memory) : crc8 lut [] = 0 := rfl

/-- The fold from the left (R114 (c)). -/
theorem crc8_append (lut : Memory) (m : List Byte) (b : Byte) :
    crc8 lut (m ++ [b]) = lut.read (crc8 lut m ^^^ b).toNat := by
  simp [crc8, crcStep, List.foldl_append]

/-- The fold depends on the table's entries only. -/
theorem crc8_congr {l k : Memory} (h : ∀ i : Byte, l.read i.toNat = k.read i.toNat) (m : List Byte) :
    crc8 l m = crc8 k m := by
  have : crcStep l = crcStep k := by funext a b; exact h _
  rw [crc8, crc8, this]

end Sys2Proof.Machine
end

