-- ==== Sys2Proof/Laws/State.lean ====
section
/-! SUPPORT. One lemma for each field of `State` under each named update, and the timers' reads under their writes. -/

namespace Sys2Proof.Machine

/-! ## `withRes` -/

@[simp] theorem State.withRes_cfg (s : State) (r : Res) : (s.withRes r).cfg = s.cfg := rfl
@[simp] theorem State.withRes_seq (s : State) (r : Res) : (s.withRes r).seq = s.seq := rfl
@[simp] theorem State.withRes_options (s : State) (r : Res) : (s.withRes r).options = s.options := rfl
@[simp] theorem State.withRes_ev (s : State) (r : Res) : (s.withRes r).ev = s.ev := rfl
@[simp] theorem State.withRes_retryCount (s : State) (r : Res) : (s.withRes r).retryCount = s.retryCount := rfl
@[simp] theorem State.withRes_ackInterval (s : State) (r : Res) : (s.withRes r).ackInterval = s.ackInterval := rfl
@[simp] theorem State.withRes_pktInterval (s : State) (r : Res) : (s.withRes r).pktInterval = s.pktInterval := rfl
@[simp] theorem State.withRes_tel (s : State) (r : Res) : (s.withRes r).tel = s.tel := rfl
@[simp] theorem State.withRes_ackreq (s : State) (r : Res) : (s.withRes r).ackreq = s.ackreq := rfl
@[simp] theorem State.withRes_ackwait (s : State) (r : Res) : (s.withRes r).ackwait = s.ackwait := rfl
@[simp] theorem State.withRes_inbox (s : State) (r : Res) : (s.withRes r).inbox = s.inbox := rfl
@[simp] theorem State.withRes_inboxValid (s : State) (r : Res) : (s.withRes r).inboxValid = s.inboxValid := rfl
@[simp] theorem State.withRes_lut (s : State) (r : Res) : (s.withRes r).lut = s.lut := rfl
@[simp] theorem State.withRes_txbuf (s : State) (r : Res) : (s.withRes r).txbuf = s.txbuf := rfl
@[simp] theorem State.withRes_env (s : State) (r : Res) : (s.withRes r).env = { s.env with res := r } := rfl

/-! ## `emit` -/

@[simp] theorem State.emit_cfg (s : State) (o : Output) : (s.emit o).cfg = s.cfg := rfl
@[simp] theorem State.emit_seq (s : State) (o : Output) : (s.emit o).seq = s.seq := rfl
@[simp] theorem State.emit_options (s : State) (o : Output) : (s.emit o).options = s.options := rfl
@[simp] theorem State.emit_ev (s : State) (o : Output) : (s.emit o).ev = s.ev := rfl
@[simp] theorem State.emit_retryCount (s : State) (o : Output) : (s.emit o).retryCount = s.retryCount := rfl
@[simp] theorem State.emit_ackInterval (s : State) (o : Output) : (s.emit o).ackInterval = s.ackInterval := rfl
@[simp] theorem State.emit_pktInterval (s : State) (o : Output) : (s.emit o).pktInterval = s.pktInterval := rfl
@[simp] theorem State.emit_tel (s : State) (o : Output) : (s.emit o).tel = s.tel := rfl
@[simp] theorem State.emit_ackreq (s : State) (o : Output) : (s.emit o).ackreq = s.ackreq := rfl
@[simp] theorem State.emit_ackwait (s : State) (o : Output) : (s.emit o).ackwait = s.ackwait := rfl
@[simp] theorem State.emit_inbox (s : State) (o : Output) : (s.emit o).inbox = s.inbox := rfl
@[simp] theorem State.emit_inboxValid (s : State) (o : Output) : (s.emit o).inboxValid = s.inboxValid := rfl
@[simp] theorem State.emit_lut (s : State) (o : Output) : (s.emit o).lut = s.lut := rfl
@[simp] theorem State.emit_txbuf (s : State) (o : Output) : (s.emit o).txbuf = s.txbuf := rfl
@[simp] theorem State.emit_env (s : State) (o : Output) : (s.emit o).env = { s.env with emitted := s.env.emitted ++ [o] } := rfl

/-! ## `withPending` -/

@[simp] theorem State.withPending_cfg (s : State) (p : List Input) : (s.withPending p).cfg = s.cfg := rfl
@[simp] theorem State.withPending_seq (s : State) (p : List Input) : (s.withPending p).seq = s.seq := rfl
@[simp] theorem State.withPending_options (s : State) (p : List Input) : (s.withPending p).options = s.options := rfl
@[simp] theorem State.withPending_ev (s : State) (p : List Input) : (s.withPending p).ev = s.ev := rfl
@[simp] theorem State.withPending_retryCount (s : State) (p : List Input) : (s.withPending p).retryCount = s.retryCount := rfl
@[simp] theorem State.withPending_ackInterval (s : State) (p : List Input) : (s.withPending p).ackInterval = s.ackInterval := rfl
@[simp] theorem State.withPending_pktInterval (s : State) (p : List Input) : (s.withPending p).pktInterval = s.pktInterval := rfl
@[simp] theorem State.withPending_tel (s : State) (p : List Input) : (s.withPending p).tel = s.tel := rfl
@[simp] theorem State.withPending_ackreq (s : State) (p : List Input) : (s.withPending p).ackreq = s.ackreq := rfl
@[simp] theorem State.withPending_ackwait (s : State) (p : List Input) : (s.withPending p).ackwait = s.ackwait := rfl
@[simp] theorem State.withPending_inbox (s : State) (p : List Input) : (s.withPending p).inbox = s.inbox := rfl
@[simp] theorem State.withPending_inboxValid (s : State) (p : List Input) : (s.withPending p).inboxValid = s.inboxValid := rfl
@[simp] theorem State.withPending_lut (s : State) (p : List Input) : (s.withPending p).lut = s.lut := rfl
@[simp] theorem State.withPending_txbuf (s : State) (p : List Input) : (s.withPending p).txbuf = s.txbuf := rfl
@[simp] theorem State.withPending_env (s : State) (p : List Input) : (s.withPending p).env = { s.env with pending := p } := rfl

/-! ## `writeOptions` -/

@[simp] theorem State.writeOptions_cfg (s : State) (v : Byte) : (s.writeOptions v).cfg = s.cfg := rfl
@[simp] theorem State.writeOptions_seq (s : State) (v : Byte) : (s.writeOptions v).seq = s.seq := rfl
@[simp] theorem State.writeOptions_options (s : State) (v : Byte) : (s.writeOptions v).options = hardwireOptions v := rfl
@[simp] theorem State.writeOptions_ev (s : State) (v : Byte) : (s.writeOptions v).ev = s.ev := rfl
@[simp] theorem State.writeOptions_retryCount (s : State) (v : Byte) : (s.writeOptions v).retryCount = s.retryCount := rfl
@[simp] theorem State.writeOptions_ackInterval (s : State) (v : Byte) : (s.writeOptions v).ackInterval = s.ackInterval := rfl
@[simp] theorem State.writeOptions_pktInterval (s : State) (v : Byte) : (s.writeOptions v).pktInterval = s.pktInterval := rfl
@[simp] theorem State.writeOptions_tel (s : State) (v : Byte) : (s.writeOptions v).tel = s.tel := rfl
@[simp] theorem State.writeOptions_ackreq (s : State) (v : Byte) : (s.writeOptions v).ackreq = s.ackreq := rfl
@[simp] theorem State.writeOptions_ackwait (s : State) (v : Byte) : (s.writeOptions v).ackwait = s.ackwait := rfl
@[simp] theorem State.writeOptions_inbox (s : State) (v : Byte) : (s.writeOptions v).inbox = s.inbox := rfl
@[simp] theorem State.writeOptions_inboxValid (s : State) (v : Byte) : (s.writeOptions v).inboxValid = s.inboxValid := rfl
@[simp] theorem State.writeOptions_lut (s : State) (v : Byte) : (s.writeOptions v).lut = s.lut := rfl
@[simp] theorem State.writeOptions_txbuf (s : State) (v : Byte) : (s.writeOptions v).txbuf = s.txbuf := rfl
@[simp] theorem State.writeOptions_env (s : State) (v : Byte) : (s.writeOptions v).env = s.env := rfl

/-! ## `writeEv` -/

@[simp] theorem State.writeEv_cfg (s : State) (v : Byte) : (s.writeEv v).cfg = s.cfg := rfl
@[simp] theorem State.writeEv_seq (s : State) (v : Byte) : (s.writeEv v).seq = s.seq := rfl
@[simp] theorem State.writeEv_options (s : State) (v : Byte) : (s.writeEv v).options = s.options := rfl
@[simp] theorem State.writeEv_ev (s : State) (v : Byte) : (s.writeEv v).ev = hardwireEv v := rfl
@[simp] theorem State.writeEv_retryCount (s : State) (v : Byte) : (s.writeEv v).retryCount = s.retryCount := rfl
@[simp] theorem State.writeEv_ackInterval (s : State) (v : Byte) : (s.writeEv v).ackInterval = s.ackInterval := rfl
@[simp] theorem State.writeEv_pktInterval (s : State) (v : Byte) : (s.writeEv v).pktInterval = s.pktInterval := rfl
@[simp] theorem State.writeEv_tel (s : State) (v : Byte) : (s.writeEv v).tel = s.tel := rfl
@[simp] theorem State.writeEv_ackreq (s : State) (v : Byte) : (s.writeEv v).ackreq = s.ackreq := rfl
@[simp] theorem State.writeEv_ackwait (s : State) (v : Byte) : (s.writeEv v).ackwait = s.ackwait := rfl
@[simp] theorem State.writeEv_inbox (s : State) (v : Byte) : (s.writeEv v).inbox = s.inbox := rfl
@[simp] theorem State.writeEv_inboxValid (s : State) (v : Byte) : (s.writeEv v).inboxValid = s.inboxValid := rfl
@[simp] theorem State.writeEv_lut (s : State) (v : Byte) : (s.writeEv v).lut = s.lut := rfl
@[simp] theorem State.writeEv_txbuf (s : State) (v : Byte) : (s.writeEv v).txbuf = s.txbuf := rfl
@[simp] theorem State.writeEv_env (s : State) (v : Byte) : (s.writeEv v).env = s.env := rfl

/-! ## `dropDraw` -/

@[simp] theorem State.dropDraw_cfg (s : State) : s.dropDraw.cfg = s.cfg := by unfold State.dropDraw; split <;> rfl
@[simp] theorem State.dropDraw_seq (s : State) : s.dropDraw.seq = s.seq := by unfold State.dropDraw; split <;> rfl
@[simp] theorem State.dropDraw_options (s : State) : s.dropDraw.options = s.options := by unfold State.dropDraw; split <;> rfl
@[simp] theorem State.dropDraw_ev (s : State) : s.dropDraw.ev = s.ev := by unfold State.dropDraw; split <;> rfl
@[simp] theorem State.dropDraw_retryCount (s : State) : s.dropDraw.retryCount = s.retryCount := by unfold State.dropDraw; split <;> rfl
@[simp] theorem State.dropDraw_ackInterval (s : State) : s.dropDraw.ackInterval = s.ackInterval := by unfold State.dropDraw; split <;> rfl
@[simp] theorem State.dropDraw_pktInterval (s : State) : s.dropDraw.pktInterval = s.pktInterval := by unfold State.dropDraw; split <;> rfl
@[simp] theorem State.dropDraw_tel (s : State) : s.dropDraw.tel = s.tel := by unfold State.dropDraw; split <;> rfl
@[simp] theorem State.dropDraw_ackreq (s : State) : s.dropDraw.ackreq = s.ackreq := by unfold State.dropDraw; split <;> rfl
@[simp] theorem State.dropDraw_ackwait (s : State) : s.dropDraw.ackwait = s.ackwait := by unfold State.dropDraw; split <;> rfl
@[simp] theorem State.dropDraw_inbox (s : State) : s.dropDraw.inbox = s.inbox := by unfold State.dropDraw; split <;> rfl
@[simp] theorem State.dropDraw_inboxValid (s : State) : s.dropDraw.inboxValid = s.inboxValid := by unfold State.dropDraw; split <;> rfl
@[simp] theorem State.dropDraw_lut (s : State) : s.dropDraw.lut = s.lut := by unfold State.dropDraw; split <;> rfl
@[simp] theorem State.dropDraw_txbuf (s : State) : s.dropDraw.txbuf = s.txbuf := by unfold State.dropDraw; split <;> rfl
@[simp] theorem State.dropDraw_pending (s : State) : s.dropDraw.env.pending = s.env.pending := by unfold State.dropDraw; split <;> rfl
@[simp] theorem State.dropDraw_res (s : State) : s.dropDraw.env.res = s.env.res := by unfold State.dropDraw; split <;> rfl
@[simp] theorem State.dropDraw_emitted (s : State) : s.dropDraw.env.emitted = s.env.emitted := by unfold State.dropDraw; split <;> rfl

/-! ## `setTimer`, `clearFlag` -/

@[simp] theorem State.setTimer_cfg (s : State) (t : TimerId) (v : Timer) : (s.setTimer t v).cfg = s.cfg := by cases t <;> rfl
@[simp] theorem State.setTimer_seq (s : State) (t : TimerId) (v : Timer) : (s.setTimer t v).seq = s.seq := by cases t <;> rfl
@[simp] theorem State.setTimer_options (s : State) (t : TimerId) (v : Timer) : (s.setTimer t v).options = s.options := by cases t <;> rfl
@[simp] theorem State.setTimer_ev (s : State) (t : TimerId) (v : Timer) : (s.setTimer t v).ev = s.ev := by cases t <;> rfl
@[simp] theorem State.setTimer_retryCount (s : State) (t : TimerId) (v : Timer) : (s.setTimer t v).retryCount = s.retryCount := by cases t <;> rfl
@[simp] theorem State.setTimer_ackInterval (s : State) (t : TimerId) (v : Timer) : (s.setTimer t v).ackInterval = s.ackInterval := by cases t <;> rfl
@[simp] theorem State.setTimer_pktInterval (s : State) (t : TimerId) (v : Timer) : (s.setTimer t v).pktInterval = s.pktInterval := by cases t <;> rfl
@[simp] theorem State.setTimer_inbox (s : State) (t : TimerId) (v : Timer) : (s.setTimer t v).inbox = s.inbox := by cases t <;> rfl
@[simp] theorem State.setTimer_inboxValid (s : State) (t : TimerId) (v : Timer) : (s.setTimer t v).inboxValid = s.inboxValid := by cases t <;> rfl
@[simp] theorem State.setTimer_lut (s : State) (t : TimerId) (v : Timer) : (s.setTimer t v).lut = s.lut := by cases t <;> rfl
@[simp] theorem State.setTimer_txbuf (s : State) (t : TimerId) (v : Timer) : (s.setTimer t v).txbuf = s.txbuf := by cases t <;> rfl
@[simp] theorem State.setTimer_env (s : State) (t : TimerId) (v : Timer) : (s.setTimer t v).env = s.env := by cases t <;> rfl

@[simp] theorem State.timer_tel (s : State) : s.timer .tel = s.tel := rfl
@[simp] theorem State.timer_ackreq (s : State) : s.timer .ackreq = s.ackreq := rfl
@[simp] theorem State.timer_ackwait (s : State) : s.timer .ackwait = s.ackwait := rfl

@[simp] theorem State.setTimer_tel (s : State) (v : Timer) : s.setTimer .tel v = { s with tel := v } := rfl
@[simp] theorem State.setTimer_ackreq (s : State) (v : Timer) : s.setTimer .ackreq v = { s with ackreq := v } := rfl
@[simp] theorem State.setTimer_ackwait (s : State) (v : Timer) : s.setTimer .ackwait v = { s with ackwait := v } := rfl

/-- Reading the timer just written. -/
@[simp] theorem State.timer_setTimer_same (s : State) (t : TimerId) (v : Timer) : (s.setTimer t v).timer t = v := by
  cases t <;> rfl

/-- A write of one timer leaves the others alone. -/
theorem State.timer_setTimer_of_ne (s : State) {t u : TimerId} (v : Timer) (h : u ≠ t) :
    (s.setTimer t v).timer u = s.timer u := by
  cases t <;> cases u <;> first | rfl | exact absurd rfl h

/-- Writing back what a timer holds changes nothing. -/
theorem State.setTimer_self (s : State) (t : TimerId) : s.setTimer t (s.timer t) = s := by cases t <;> rfl

/-- `clearFlag` is a write of one timer. -/
theorem State.clearFlag_eq (s : State) (t : TimerId) : s.clearFlag t = s.setTimer t { s.timer t with flag := false } := rfl

/-! ## Timers -/

@[simp] theorem Timer.load_armed (T : Timer) (I : Word) : (T.load I).armed = true := rfl
@[simp] theorem Timer.load_interval (T : Timer) (I : Word) : (T.load I).interval = I := rfl
@[simp] theorem Timer.load_count (T : Timer) (I : Word) : (T.load I).count = I := rfl
@[simp] theorem Timer.load_flag (T : Timer) (I : Word) : (T.load I).flag = T.flag := rfl
@[simp] theorem Timer.stop_armed (T : Timer) : T.stop.armed = false := rfl
@[simp] theorem Timer.stop_interval (T : Timer) : T.stop.interval = T.interval := rfl
@[simp] theorem Timer.stop_count (T : Timer) : T.stop.count = 0 := rfl
@[simp] theorem Timer.stop_flag (T : Timer) : T.stop.flag = T.flag := rfl
@[simp] theorem Timer.stop_load (T : Timer) (I : Word) : T.stop.load I = T.load I := rfl

/-- A tick never writes the interval (R144). -/
@[simp] theorem Timer.tick_interval (m : Mode) (T : Timer) : (T.tick m).interval = T.interval := by
  unfold Timer.tick
  split
  · split
    · cases m <;> rfl
    · rfl
  · rfl

/-- A tick never stops a periodic timer (R144). -/
@[simp] theorem Timer.tick_armed_periodic (T : Timer) : (T.tick .periodic).armed = T.armed := by
  unfold Timer.tick
  split
  · split <;> rfl
  · rfl

/-! ## Writes of a byte space -/

@[simp] theorem memWriteList_lut_cfg (s : State) (a : Nat) (vs : List Byte) : (memWriteList s .lut a vs).cfg = s.cfg := rfl
@[simp] theorem memWriteList_lut_seq (s : State) (a : Nat) (vs : List Byte) : (memWriteList s .lut a vs).seq = s.seq := rfl
@[simp] theorem memWriteList_lut_options (s : State) (a : Nat) (vs : List Byte) : (memWriteList s .lut a vs).options = s.options := rfl
@[simp] theorem memWriteList_lut_ev (s : State) (a : Nat) (vs : List Byte) : (memWriteList s .lut a vs).ev = s.ev := rfl
@[simp] theorem memWriteList_lut_retryCount (s : State) (a : Nat) (vs : List Byte) : (memWriteList s .lut a vs).retryCount = s.retryCount := rfl
@[simp] theorem memWriteList_lut_ackInterval (s : State) (a : Nat) (vs : List Byte) : (memWriteList s .lut a vs).ackInterval = s.ackInterval := rfl
@[simp] theorem memWriteList_lut_pktInterval (s : State) (a : Nat) (vs : List Byte) : (memWriteList s .lut a vs).pktInterval = s.pktInterval := rfl
@[simp] theorem memWriteList_lut_tel (s : State) (a : Nat) (vs : List Byte) : (memWriteList s .lut a vs).tel = s.tel := rfl
@[simp] theorem memWriteList_lut_ackreq (s : State) (a : Nat) (vs : List Byte) : (memWriteList s .lut a vs).ackreq = s.ackreq := rfl
@[simp] theorem memWriteList_lut_ackwait (s : State) (a : Nat) (vs : List Byte) : (memWriteList s .lut a vs).ackwait = s.ackwait := rfl
@[simp] theorem memWriteList_lut_inbox (s : State) (a : Nat) (vs : List Byte) : (memWriteList s .lut a vs).inbox = s.inbox := rfl
@[simp] theorem memWriteList_lut_inboxValid (s : State) (a : Nat) (vs : List Byte) : (memWriteList s .lut a vs).inboxValid = s.inboxValid := rfl
@[simp] theorem memWriteList_lut_lut (s : State) (a : Nat) (vs : List Byte) : (memWriteList s .lut a vs).lut = s.lut.writeList a vs := rfl
@[simp] theorem memWriteList_lut_txbuf (s : State) (a : Nat) (vs : List Byte) : (memWriteList s .lut a vs).txbuf = s.txbuf := rfl
@[simp] theorem memWriteList_lut_env (s : State) (a : Nat) (vs : List Byte) : (memWriteList s .lut a vs).env = s.env := rfl
@[simp] theorem memWriteList_inbox_cfg (s : State) (a : Nat) (vs : List Byte) : (memWriteList s .inbox a vs).cfg = s.cfg := rfl
@[simp] theorem memWriteList_inbox_seq (s : State) (a : Nat) (vs : List Byte) : (memWriteList s .inbox a vs).seq = s.seq := rfl
@[simp] theorem memWriteList_inbox_options (s : State) (a : Nat) (vs : List Byte) : (memWriteList s .inbox a vs).options = s.options := rfl
@[simp] theorem memWriteList_inbox_ev (s : State) (a : Nat) (vs : List Byte) : (memWriteList s .inbox a vs).ev = s.ev := rfl
@[simp] theorem memWriteList_inbox_retryCount (s : State) (a : Nat) (vs : List Byte) : (memWriteList s .inbox a vs).retryCount = s.retryCount := rfl
@[simp] theorem memWriteList_inbox_ackInterval (s : State) (a : Nat) (vs : List Byte) : (memWriteList s .inbox a vs).ackInterval = s.ackInterval := rfl
@[simp] theorem memWriteList_inbox_pktInterval (s : State) (a : Nat) (vs : List Byte) : (memWriteList s .inbox a vs).pktInterval = s.pktInterval := rfl
@[simp] theorem memWriteList_inbox_tel (s : State) (a : Nat) (vs : List Byte) : (memWriteList s .inbox a vs).tel = s.tel := rfl
@[simp] theorem memWriteList_inbox_ackreq (s : State) (a : Nat) (vs : List Byte) : (memWriteList s .inbox a vs).ackreq = s.ackreq := rfl
@[simp] theorem memWriteList_inbox_ackwait (s : State) (a : Nat) (vs : List Byte) : (memWriteList s .inbox a vs).ackwait = s.ackwait := rfl
@[simp] theorem memWriteList_inbox_inbox (s : State) (a : Nat) (vs : List Byte) : (memWriteList s .inbox a vs).inbox = s.inbox.writeList a vs := rfl
@[simp] theorem memWriteList_inbox_inboxValid (s : State) (a : Nat) (vs : List Byte) : (memWriteList s .inbox a vs).inboxValid = s.inboxValid := rfl
@[simp] theorem memWriteList_inbox_lut (s : State) (a : Nat) (vs : List Byte) : (memWriteList s .inbox a vs).lut = s.lut := rfl
@[simp] theorem memWriteList_inbox_txbuf (s : State) (a : Nat) (vs : List Byte) : (memWriteList s .inbox a vs).txbuf = s.txbuf := rfl
@[simp] theorem memWriteList_inbox_env (s : State) (a : Nat) (vs : List Byte) : (memWriteList s .inbox a vs).env = s.env := rfl
@[simp] theorem memWriteList_txbuf_cfg (s : State) (a : Nat) (vs : List Byte) : (memWriteList s .txbuf a vs).cfg = s.cfg := rfl
@[simp] theorem memWriteList_txbuf_seq (s : State) (a : Nat) (vs : List Byte) : (memWriteList s .txbuf a vs).seq = s.seq := rfl
@[simp] theorem memWriteList_txbuf_options (s : State) (a : Nat) (vs : List Byte) : (memWriteList s .txbuf a vs).options = s.options := rfl
@[simp] theorem memWriteList_txbuf_ev (s : State) (a : Nat) (vs : List Byte) : (memWriteList s .txbuf a vs).ev = s.ev := rfl
@[simp] theorem memWriteList_txbuf_retryCount (s : State) (a : Nat) (vs : List Byte) : (memWriteList s .txbuf a vs).retryCount = s.retryCount := rfl
@[simp] theorem memWriteList_txbuf_ackInterval (s : State) (a : Nat) (vs : List Byte) : (memWriteList s .txbuf a vs).ackInterval = s.ackInterval := rfl
@[simp] theorem memWriteList_txbuf_pktInterval (s : State) (a : Nat) (vs : List Byte) : (memWriteList s .txbuf a vs).pktInterval = s.pktInterval := rfl
@[simp] theorem memWriteList_txbuf_tel (s : State) (a : Nat) (vs : List Byte) : (memWriteList s .txbuf a vs).tel = s.tel := rfl
@[simp] theorem memWriteList_txbuf_ackreq (s : State) (a : Nat) (vs : List Byte) : (memWriteList s .txbuf a vs).ackreq = s.ackreq := rfl
@[simp] theorem memWriteList_txbuf_ackwait (s : State) (a : Nat) (vs : List Byte) : (memWriteList s .txbuf a vs).ackwait = s.ackwait := rfl
@[simp] theorem memWriteList_txbuf_inbox (s : State) (a : Nat) (vs : List Byte) : (memWriteList s .txbuf a vs).inbox = s.inbox := rfl
@[simp] theorem memWriteList_txbuf_inboxValid (s : State) (a : Nat) (vs : List Byte) : (memWriteList s .txbuf a vs).inboxValid = s.inboxValid := rfl
@[simp] theorem memWriteList_txbuf_lut (s : State) (a : Nat) (vs : List Byte) : (memWriteList s .txbuf a vs).lut = s.lut := rfl
@[simp] theorem memWriteList_txbuf_txbuf (s : State) (a : Nat) (vs : List Byte) : (memWriteList s .txbuf a vs).txbuf = s.txbuf.writeList a vs := rfl
@[simp] theorem memWriteList_txbuf_env (s : State) (a : Nat) (vs : List Byte) : (memWriteList s .txbuf a vs).env = s.env := rfl

/-- A write of one space leaves the others' bytes alone. -/
theorem memRead_memWriteList_of_ne (s : State) {S U : Space} (a b : Nat) (vs : List Byte) (h : U ≠ S) :
    memRead (memWriteList s S a vs) U b = memRead s U b := by
  cases S <;> cases U <;> first | rfl | exact absurd rfl h

/-- A byte reads the same in states whose spaces are the same. -/
theorem memRead_congr {s t : State} (hl : t.lut = s.lut) (hi : t.inbox = s.inbox) (hx : t.txbuf = s.txbuf) (S : Space)
    (a : Nat) : memRead t S a = memRead s S a := by
  cases S <;> simp [memRead, State.space, *]

@[simp] theorem memRead_lut (s : State) (a : Nat) : memRead s .lut a = s.lut.read a := rfl
@[simp] theorem memRead_inbox (s : State) (a : Nat) : memRead s .inbox a = s.inbox.read a := rfl
@[simp] theorem memRead_txbuf (s : State) (a : Nat) : memRead s .txbuf a = s.txbuf.read a := rfl

/-! ## `clearInbox`, `clearEvents`, `recordEvent`, `tickTimers`, `holdTick` -/

@[simp] theorem clearInbox_cfg (s : State) : (clearInbox s).cfg = s.cfg := rfl
@[simp] theorem clearInbox_seq (s : State) : (clearInbox s).seq = s.seq := rfl
@[simp] theorem clearInbox_options (s : State) : (clearInbox s).options = s.options := rfl
@[simp] theorem clearInbox_ev (s : State) : (clearInbox s).ev = s.ev := rfl
@[simp] theorem clearInbox_retryCount (s : State) : (clearInbox s).retryCount = s.retryCount := rfl
@[simp] theorem clearInbox_ackInterval (s : State) : (clearInbox s).ackInterval = s.ackInterval := rfl
@[simp] theorem clearInbox_pktInterval (s : State) : (clearInbox s).pktInterval = s.pktInterval := rfl
@[simp] theorem clearInbox_tel (s : State) : (clearInbox s).tel = s.tel := rfl
@[simp] theorem clearInbox_ackreq (s : State) : (clearInbox s).ackreq = s.ackreq := rfl
@[simp] theorem clearInbox_ackwait (s : State) : (clearInbox s).ackwait = s.ackwait := rfl
@[simp] theorem clearInbox_inbox (s : State) : (clearInbox s).inbox = s.inbox.writeList 0 [0x00, 0x00, 0x00] := rfl
@[simp] theorem clearInbox_inboxValid (s : State) : (clearInbox s).inboxValid = false := rfl
@[simp] theorem clearInbox_lut (s : State) : (clearInbox s).lut = s.lut := rfl
@[simp] theorem clearInbox_txbuf (s : State) : (clearInbox s).txbuf = s.txbuf := rfl
@[simp] theorem clearInbox_env (s : State) : (clearInbox s).env = s.env := rfl

@[simp] theorem clearEvents_cfg (s : State) : (clearEvents s).cfg = s.cfg := rfl
@[simp] theorem clearEvents_seq (s : State) : (clearEvents s).seq = s.seq := rfl
@[simp] theorem clearEvents_options (s : State) : (clearEvents s).options = s.options := rfl
@[simp] theorem clearEvents_ev (s : State) : (clearEvents s).ev = 0x00 := rfl
@[simp] theorem clearEvents_retryCount (s : State) : (clearEvents s).retryCount = s.retryCount := rfl
@[simp] theorem clearEvents_ackInterval (s : State) : (clearEvents s).ackInterval = s.ackInterval := rfl
@[simp] theorem clearEvents_pktInterval (s : State) : (clearEvents s).pktInterval = s.pktInterval := rfl
@[simp] theorem clearEvents_tel (s : State) : (clearEvents s).tel = s.tel := rfl
@[simp] theorem clearEvents_ackreq (s : State) : (clearEvents s).ackreq = s.ackreq := rfl
@[simp] theorem clearEvents_ackwait (s : State) : (clearEvents s).ackwait = s.ackwait := rfl
@[simp] theorem clearEvents_inbox (s : State) : (clearEvents s).inbox = s.inbox := rfl
@[simp] theorem clearEvents_inboxValid (s : State) : (clearEvents s).inboxValid = s.inboxValid := rfl
@[simp] theorem clearEvents_lut (s : State) : (clearEvents s).lut = s.lut := rfl
@[simp] theorem clearEvents_txbuf (s : State) : (clearEvents s).txbuf = s.txbuf := rfl
@[simp] theorem clearEvents_env (s : State) : (clearEvents s).env = s.env := rfl

@[simp] theorem recordEvent_cfg (src : Source) (s : State) : (recordEvent src s).cfg = s.cfg := rfl
@[simp] theorem recordEvent_seq (src : Source) (s : State) : (recordEvent src s).seq = s.seq := rfl
@[simp] theorem recordEvent_options (src : Source) (s : State) : (recordEvent src s).options = s.options := rfl
@[simp] theorem recordEvent_ev (src : Source) (s : State) : (recordEvent src s).ev = hardwireEv (s.readEv ||| sourceMask src) := rfl
@[simp] theorem recordEvent_retryCount (src : Source) (s : State) : (recordEvent src s).retryCount = s.retryCount := rfl
@[simp] theorem recordEvent_ackInterval (src : Source) (s : State) : (recordEvent src s).ackInterval = s.ackInterval := rfl
@[simp] theorem recordEvent_pktInterval (src : Source) (s : State) : (recordEvent src s).pktInterval = s.pktInterval := rfl
@[simp] theorem recordEvent_tel (src : Source) (s : State) : (recordEvent src s).tel = s.tel := rfl
@[simp] theorem recordEvent_ackreq (src : Source) (s : State) : (recordEvent src s).ackreq = s.ackreq := rfl
@[simp] theorem recordEvent_ackwait (src : Source) (s : State) : (recordEvent src s).ackwait = s.ackwait := rfl
@[simp] theorem recordEvent_inbox (src : Source) (s : State) : (recordEvent src s).inbox = s.inbox := rfl
@[simp] theorem recordEvent_inboxValid (src : Source) (s : State) : (recordEvent src s).inboxValid = s.inboxValid := rfl
@[simp] theorem recordEvent_lut (src : Source) (s : State) : (recordEvent src s).lut = s.lut := rfl
@[simp] theorem recordEvent_txbuf (src : Source) (s : State) : (recordEvent src s).txbuf = s.txbuf := rfl
@[simp] theorem recordEvent_env (src : Source) (s : State) : (recordEvent src s).env = s.env := rfl

@[simp] theorem tickTimers_cfg (s : State) : (tickTimers s).cfg = s.cfg := rfl
@[simp] theorem tickTimers_seq (s : State) : (tickTimers s).seq = s.seq := rfl
@[simp] theorem tickTimers_options (s : State) : (tickTimers s).options = s.options := rfl
@[simp] theorem tickTimers_ev (s : State) : (tickTimers s).ev = s.ev := rfl
@[simp] theorem tickTimers_retryCount (s : State) : (tickTimers s).retryCount = s.retryCount := rfl
@[simp] theorem tickTimers_ackInterval (s : State) : (tickTimers s).ackInterval = s.ackInterval := rfl
@[simp] theorem tickTimers_pktInterval (s : State) : (tickTimers s).pktInterval = s.pktInterval := rfl
@[simp] theorem tickTimers_tel (s : State) : (tickTimers s).tel = s.tel.tick .periodic := rfl
@[simp] theorem tickTimers_ackreq (s : State) : (tickTimers s).ackreq = s.ackreq.tick .periodic := rfl
@[simp] theorem tickTimers_ackwait (s : State) : (tickTimers s).ackwait = s.ackwait.tick .oneShot := rfl
@[simp] theorem tickTimers_inbox (s : State) : (tickTimers s).inbox = s.inbox := rfl
@[simp] theorem tickTimers_inboxValid (s : State) : (tickTimers s).inboxValid = s.inboxValid := rfl
@[simp] theorem tickTimers_lut (s : State) : (tickTimers s).lut = s.lut := rfl
@[simp] theorem tickTimers_txbuf (s : State) : (tickTimers s).txbuf = s.txbuf := rfl
@[simp] theorem tickTimers_env (s : State) : (tickTimers s).env = s.env := rfl

@[simp] theorem holdTick_cfg (s : State) : (holdTick s).cfg = s.cfg := rfl
@[simp] theorem holdTick_seq (s : State) : (holdTick s).seq = s.seq := rfl
@[simp] theorem holdTick_options (s : State) : (holdTick s).options = s.options := rfl
@[simp] theorem holdTick_ev (s : State) : (holdTick s).ev = s.ev := rfl
@[simp] theorem holdTick_retryCount (s : State) : (holdTick s).retryCount = s.retryCount := rfl
@[simp] theorem holdTick_ackInterval (s : State) : (holdTick s).ackInterval = s.ackInterval := rfl
@[simp] theorem holdTick_pktInterval (s : State) : (holdTick s).pktInterval = s.pktInterval := rfl
@[simp] theorem holdTick_tel (s : State) : (holdTick s).tel = s.tel := rfl
@[simp] theorem holdTick_ackreq (s : State) : (holdTick s).ackreq = s.ackreq := rfl
@[simp] theorem holdTick_ackwait (s : State) : (holdTick s).ackwait = s.ackwait := rfl
@[simp] theorem holdTick_inbox (s : State) : (holdTick s).inbox = s.inbox := rfl
@[simp] theorem holdTick_inboxValid (s : State) : (holdTick s).inboxValid = s.inboxValid := rfl
@[simp] theorem holdTick_lut (s : State) : (holdTick s).lut = s.lut := rfl
@[simp] theorem holdTick_txbuf (s : State) : (holdTick s).txbuf = s.txbuf := rfl
@[simp] theorem holdTick_env (s : State) : (holdTick s).env = { s.env with pending := .operation (encode .tick) :: s.env.pending } := rfl

/-! ## The reset state -/

@[simp] theorem State.resetIn_cfg (c : Cfg) (e : Env) : (State.resetIn c e).cfg = c := by simp only [State.resetIn]
@[simp] theorem State.resetIn_seq (c : Cfg) (e : Env) : (State.resetIn c e).seq = c.seqInit := by simp only [State.resetIn]
@[simp] theorem State.resetIn_options (c : Cfg) (e : Env) : (State.resetIn c e).options = 0x02 := by simp only [State.resetIn]
@[simp] theorem State.resetIn_ev (c : Cfg) (e : Env) : (State.resetIn c e).ev = 0x00 := by simp only [State.resetIn]
@[simp] theorem State.resetIn_retryCount (c : Cfg) (e : Env) : (State.resetIn c e).retryCount = 0 := by simp only [State.resetIn]
@[simp] theorem State.resetIn_ackInterval (c : Cfg) (e : Env) : (State.resetIn c e).ackInterval = c.baseAck := by simp only [State.resetIn]
@[simp] theorem State.resetIn_pktInterval (c : Cfg) (e : Env) : (State.resetIn c e).pktInterval = c.baseTel := by simp only [State.resetIn]
@[simp] theorem State.resetIn_tel (c : Cfg) (e : Env) : (State.resetIn c e).tel = { armed := true, interval := c.baseTel, count := c.baseTel, flag := false } := by simp only [State.resetIn]
@[simp] theorem State.resetIn_ackreq (c : Cfg) (e : Env) : (State.resetIn c e).ackreq = { armed := true, interval := c.baseAck, count := c.baseAck, flag := false } := by simp only [State.resetIn]
@[simp] theorem State.resetIn_ackwait (c : Cfg) (e : Env) : (State.resetIn c e).ackwait = { armed := false, interval := c.ackWait, count := 0, flag := false } := by simp only [State.resetIn]
@[simp] theorem State.resetIn_inbox (c : Cfg) (e : Env) : (State.resetIn c e).inbox = [] := by simp only [State.resetIn]
@[simp] theorem State.resetIn_inboxValid (c : Cfg) (e : Env) : (State.resetIn c e).inboxValid = false := by simp only [State.resetIn]
@[simp] theorem State.resetIn_lut (c : Cfg) (e : Env) : (State.resetIn c e).lut = fillLut c [] := by simp only [State.resetIn]
@[simp] theorem State.resetIn_txbuf (c : Cfg) (e : Env) : (State.resetIn c e).txbuf = [] := by simp only [State.resetIn]
@[simp] theorem State.resetIn_env (c : Cfg) (e : Env) : (State.resetIn c e).env = e := by simp only [State.resetIn]

/-! ## Readings that depend on one field -/

@[simp] theorem State.readOptions_withRes (s : State) (r : Res) : (s.withRes r).readOptions = s.readOptions := rfl
@[simp] theorem State.readEv_withRes (s : State) (r : Res) : (s.withRes r).readEv = s.readEv := rfl
@[simp] theorem State.draw_withRes (s : State) (r : Res) : (s.withRes r).draw = s.draw := rfl
@[simp] theorem State.timer_withRes (s : State) (r : Res) (t : TimerId) : (s.withRes r).timer t = s.timer t := by
  cases t <;> rfl
@[simp] theorem State.anyFlag_withRes (s : State) (r : Res) : (s.withRes r).anyFlag = s.anyFlag := rfl
@[simp] theorem State.nextService_withRes (s : State) (r : Res) : (s.withRes r).nextService = s.nextService := rfl
@[simp] theorem State.withRes_withRes (s : State) (r q : Res) : (s.withRes r).withRes q = s.withRes q := rfl

/-- Presenting and taking an operation leaves the state as it was. -/
theorem State.present_withPending (s : State) (x : Input) : (s.withPending (x :: s.env.pending)).withPending s.env.pending = s :=
  rfl

end Sys2Proof.Machine
end

