-- ==== Sys2Proof/Laws/Ops.lean ====
section
/-! SUPPORT. For each shared operation, one lemma that says everything it can do; later proofs cite these instead of unfolding
the operation. -/

namespace Sys2Proof.Machine

theorem andThen_next {o : Answer} {f : State → Answer} {t : State} :
    andThen o f = .next t ↔ ∃ s, o = .next s ∧ f s = .next t := by
  cases o with
  | next s => simp [andThen]
  | fault e => cases e
  | refused r => simp [andThen]

@[simp] theorem andThen_of_next (s : State) (f : State → Answer) : andThen (.next s) f = f s := rfl

/-! ## Timers -/

theorem armTimer_next {u : TimerId} {I : Word} {s t : State} :
    armTimer u I s = .next t ↔ I ≠ 0 ∧ t = s.setTimer u ((s.timer u).load I) := by
  by_cases h : I = 0
  · simp [armTimer, h]
  · rw [armTimer, if_neg h]
    constructor
    · rintro ⟨⟩
      exact ⟨h, rfl⟩
    · rintro ⟨_, rfl⟩
      rfl

theorem setTimer_setTimer (s : State) (u : TimerId) (v w : Timer) : (s.setTimer u v).setTimer u w = s.setTimer u w := by
  cases u <;> rfl

/-- `REARM` comes to the three writes of `ARM` (R143). -/
theorem rearmTimer_eq_armTimer (u : TimerId) (I : Word) (s : State) : rearmTimer u I s = armTimer u I s := by
  unfold rearmTimer armTimer disarmTimer
  split
  · rfl
  · simp [setTimer_setTimer]

theorem rearmTimer_next {u : TimerId} {I : Word} {s t : State} :
    rearmTimer u I s = .next t ↔ I ≠ 0 ∧ t = s.setTimer u ((s.timer u).load I) := by
  rw [rearmTimer_eq_armTimer, armTimer_next]

/-- Both periodic timers loaded, and the two interval registers with them. -/
def loadBoth (telInterval ackInterval : Word) (s : State) : State :=
  { s with
    tel := s.tel.load telInterval
    ackreq := s.ackreq.load ackInterval
    pktInterval := telInterval
    ackInterval := ackInterval }

@[simp] theorem loadBoth_cfg (a b : Word) (s : State) : (loadBoth a b s).cfg = s.cfg := rfl
@[simp] theorem loadBoth_seq (a b : Word) (s : State) : (loadBoth a b s).seq = s.seq := rfl
@[simp] theorem loadBoth_options (a b : Word) (s : State) : (loadBoth a b s).options = s.options := rfl
@[simp] theorem loadBoth_ev (a b : Word) (s : State) : (loadBoth a b s).ev = s.ev := rfl
@[simp] theorem loadBoth_retryCount (a b : Word) (s : State) : (loadBoth a b s).retryCount = s.retryCount := rfl
@[simp] theorem loadBoth_ackInterval (a b : Word) (s : State) : (loadBoth a b s).ackInterval = b := rfl
@[simp] theorem loadBoth_pktInterval (a b : Word) (s : State) : (loadBoth a b s).pktInterval = a := rfl
@[simp] theorem loadBoth_tel (a b : Word) (s : State) : (loadBoth a b s).tel = s.tel.load a := rfl
@[simp] theorem loadBoth_ackreq (a b : Word) (s : State) : (loadBoth a b s).ackreq = s.ackreq.load b := rfl
@[simp] theorem loadBoth_ackwait (a b : Word) (s : State) : (loadBoth a b s).ackwait = s.ackwait := rfl
@[simp] theorem loadBoth_inbox (a b : Word) (s : State) : (loadBoth a b s).inbox = s.inbox := rfl
@[simp] theorem loadBoth_inboxValid (a b : Word) (s : State) : (loadBoth a b s).inboxValid = s.inboxValid := rfl
@[simp] theorem loadBoth_lut (a b : Word) (s : State) : (loadBoth a b s).lut = s.lut := rfl
@[simp] theorem loadBoth_txbuf (a b : Word) (s : State) : (loadBoth a b s).txbuf = s.txbuf := rfl
@[simp] theorem loadBoth_env (a b : Word) (s : State) : (loadBoth a b s).env = s.env := rfl

theorem rearmBoth_next {a b : Word} {s t : State} :
    rearmBoth a b s = .next t ↔ a ≠ 0 ∧ b ≠ 0 ∧ t = loadBoth a b s := by
  unfold rearmBoth
  simp only [andThen_next, rearmTimer_next]
  constructor
  · rintro ⟨s1, ⟨ha, rfl⟩, s2, ⟨hb, rfl⟩, h⟩
    exact ⟨ha, hb, by simpa [loadBoth, eq_comm] using h⟩
  · rintro ⟨ha, hb, rfl⟩
    exact ⟨_, ⟨ha, rfl⟩, _, ⟨hb, rfl⟩, rfl⟩

/-! ## The services -/

theorem matchPath_next {s t : State} :
    matchPath s = .next t ↔
      (s.retryCount = 0 ∧ t = (clearInbox s).emit (.status .acked 0)) ∨
      (s.retryCount ≠ 0 ∧ s.cfg.baseTel ≠ 0 ∧ s.cfg.baseAck ≠ 0 ∧
        t = (loadBoth s.cfg.baseTel s.cfg.baseAck { clearInbox s with retryCount := 0 }).emit (.status .acked 0)) := by
  unfold matchPath
  by_cases h : s.retryCount = 0
  · simp only [h, if_true, andThen_of_next, ne_eq, not_true_eq_false, false_and, or_false, true_and]
    constructor
    · rintro ⟨⟩
      rfl
    · rintro rfl
      rfl
  · simp only [h, if_false, andThen_next, rearmBoth_next, false_and, false_or, ne_eq, not_false_iff, true_and]
    constructor
    · rintro ⟨s1, ⟨ha, hb, rfl⟩, e⟩
      exact ⟨ha, hb, by simpa [eq_comm] using e⟩
    · rintro ⟨ha, hb, rfl⟩
      exact ⟨_, ⟨ha, hb, rfl⟩, rfl⟩

/-- The state the no-match path leaves (R168). -/
def backedOff (s : State) : State :=
  let n := nextRetryCount s.retryCount s.cfg.retryMax
  let I := backoffInterval s.cfg.baseAck n
  (loadBoth I I ({ s with retryCount := n }.writeOptions (s.readOptions ||| optRetry))).emit (.status .retrying n)

theorem noMatchPath_next {s t : State} :
    noMatchPath s = .next t ↔
      backoffInterval s.cfg.baseAck (nextRetryCount s.retryCount s.cfg.retryMax) ≠ 0 ∧ t = backedOff s := by
  unfold noMatchPath
  simp only [andThen_next, rearmBoth_next]
  constructor
  · rintro ⟨s1, ⟨ha, _, rfl⟩, e⟩
    exact ⟨ha, by simpa [backedOff, eq_comm] using e⟩
  · rintro ⟨ha, rfl⟩
    exact ⟨_, ⟨ha, ha, rfl⟩, rfl⟩

theorem serviceWait_next {s t : State} :
    serviceWait s = .next t ↔
      s.ackwait.flag = true ∧
        ((inboxMatches s = true ∧ matchPath (s.clearFlag .ackwait) = .next t) ∨
          (inboxMatches s = false ∧ noMatchPath (s.clearFlag .ackwait) = .next t)) := by
  unfold serviceWait
  cases s.ackwait.flag <;> cases inboxMatches s <;> simp

theorem serviceReq_next {s t : State} :
    serviceReq s = .next t ↔
      s.ackreq.flag = true ∧ s.cfg.ackWait ≠ 0 ∧
        t = (((s.clearFlag .ackreq).writeOptions (s.readOptions ||| optAckrq)).setTimer .ackwait
          (s.ackwait.load s.cfg.ackWait)) := by
  unfold serviceReq
  cases s.ackreq.flag with
  | false => simp
  | true =>
    simp only [if_true, armTimer_next, true_and]
    rfl

theorem serviceTel_next {s t : State} :
    serviceTel s = .next t ↔
      s.tel.flag = true ∧ t = afterSend s.draw.ok (sendFrame (s.clearFlag .tel)) := by
  unfold serviceTel
  cases s.tel.flag <;> simp [eq_comm]

/-- One turn of the loop is one service, in the order of R152, or nothing. -/
theorem pollTurn_next {s t : State} :
    pollTurn s = .next t ↔
      (s.ackwait.flag = true ∧ serviceWait s = .next t) ∨
      (s.ackwait.flag = false ∧ s.ackreq.flag = true ∧ serviceReq s = .next t) ∨
      (s.ackwait.flag = false ∧ s.ackreq.flag = false ∧ s.tel.flag = true ∧ serviceTel s = .next t) ∨
      (s.ackwait.flag = false ∧ s.ackreq.flag = false ∧ s.tel.flag = false ∧ t = s) := by
  unfold pollTurn State.nextService
  cases s.ackwait.flag <;> cases s.ackreq.flag <;> cases s.tel.flag <;> simp [eq_comm]

/-! ## Which transition comes next -/

/-- Everything a step that answers a next state can be: an operation performed, a held `TICK` or an idle port with a turn of
the loop, or a reset. -/
theorem step_next {s t : State} (h : step s = .next t) :
    (s.env.pending = [] ∧ exec .poll s = .next t) ∨
    (∃ x rest i, s.env.pending = .operation x :: rest ∧ decode x = .ok i ∧ held i s = true ∧ exec .poll s = .next t) ∨
    (∃ x rest i, s.env.pending = .operation x :: rest ∧ decode x = .ok i ∧ held i s = false ∧
      exec i (s.withPending rest) = .next t) ∨
    (∃ c rest, s.env.pending = .reset c :: rest ∧ c.valid = true ∧
      t = State.resetIn c { s.env with pending := rest, res := .none }) := by
  unfold step nextMove at h
  cases hp : s.env.pending with
  | nil =>
    rw [hp] at h
    exact .inl ⟨rfl, h⟩
  | cons x rest =>
    rw [hp] at h
    cases x with
    | operation x =>
      simp only at h
      cases hd : decode x with
      | error e =>
        obtain ⟨w⟩ := e
        rw [hd] at h
        simp at h
      | ok i =>
        rw [hd] at h
        simp only at h
        cases hh : held i s with
        | true =>
          rw [hh] at h
          exact .inr (.inl ⟨x, rest, i, rfl, hd, hh, h⟩)
        | false =>
          rw [hh] at h
          exact .inr (.inr (.inl ⟨x, rest, i, rfl, hd, hh, h⟩))
    | reset c =>
      simp only [launch] at h
      split at h
      · next hv =>
        exact .inr (.inr (.inr ⟨c, rest, rfl, hv, by simpa [eq_comm] using h⟩))
      · simp at h

theorem held_eq_true {i : Instr} {s : State} : held i s = true ↔ i = .tick ∧ s.anyFlag = true := by
  cases i <;> simp [held, State.tickEnabled]

end Sys2Proof.Machine
end

