-- ==== Sys2Proof/Laws/Services.lean ====
section
/-! SUPPORT. What the services leave: the interval law's arithmetic (45_retry_backoff.md R168, R169), the flags and the ports after
a service, when a service completes. -/

namespace Sys2Proof.Machine

/-! ## A legal configuration (00_scope.md R10) and the interval law -/

theorem valid_iff {c : Cfg} : c.valid = true ↔
    c.baseTel ≠ 0 ∧ c.baseAck ≠ 0 ∧ c.ackWait ≠ 0 ∧ c.baseAck.toNat * (c.retryMax.toNat + 1) < 2 ^ 32 := by
  simp only [Cfg.valid, Bool.and_eq_true, bne_iff_ne, decide_eq_true_eq, and_assoc, ne_eq]

theorem nextRetryCount_toNat (a b : Half) : (nextRetryCount a b).toNat = min (a.toNat + 1) b.toNat := by
  have := b.isLt
  simp only [nextRetryCount, BitVec.toNat_ofNat]
  omega

/-- The back-off interval is exact for every count up to the ceiling of a legal configuration (R16 (c)). -/
theorem backoffInterval_toNat {c : Cfg} (h : c.valid = true) (n : Half) (hn : n.toNat ≤ c.retryMax.toNat) :
    (backoffInterval c.baseAck n).toNat = c.baseAck.toNat + c.baseAck.toNat * n.toNat := by
  have hv := (valid_iff.mp h).2.2.2
  have : c.baseAck.toNat * n.toNat ≤ c.baseAck.toNat * c.retryMax.toNat := Nat.mul_le_mul_left _ hn
  rw [Nat.mul_add] at hv
  simp only [backoffInterval, BitVec.toNat_ofNat]
  omega

theorem backoffInterval_ne_zero {c : Cfg} (h : c.valid = true) (r : Half) :
    backoffInterval c.baseAck (nextRetryCount r c.retryMax) ≠ 0 := by
  have h1 := backoffInterval_toNat h (nextRetryCount r c.retryMax) (by rw [nextRetryCount_toNat]; omega)
  have h2 : c.baseAck.toNat ≠ 0 := by have := (valid_iff.mp h).2.1; bv_omega
  intro h0
  rw [h0] at h1
  simp at h1
  omega

/-! ## The inbox -/

/-- What the answer of `MATCH` says. -/
theorem inboxMatches_of_exec {s : State} {b : Bool} (h : exec .matchInbox s = .next (s.withRes (.matched b))) :
    inboxMatches s = b := by
  have h := congrArg (fun a => match a with | Host.Outcome.next (t : State) => t.env.res | _ => .none) h
  simpa [exec, execMatchInbox] using h

/-- Three bytes written at index 0 of a space in canonical form. -/
theorem writeList_three {m : Memory} (hm : m.wf) (a b c : Byte) :
    (m.writeList 0 [a, b, c]).read 0 = a ∧ (m.writeList 0 [a, b, c]).read 1 = b ∧ (m.writeList 0 [a, b, c]).read 2 = c ∧
      ∀ i, 3 ≤ i → (m.writeList 0 [a, b, c]).read i = m.read i := by
  refine ⟨?_, ?_, ?_, ?_⟩
  · rw [Memory.read_writeList hm]; rfl
  · rw [Memory.read_writeList hm]; rfl
  · rw [Memory.read_writeList hm]; rfl
  · intro i hi
    rw [Memory.read_writeList hm, dif_neg (by simp only [List.length_cons, List.length_nil]; omega)]

/-- The three ways a wait service completes (R166 to R168). -/
theorem serviceWait_cases {s t : State} (h : serviceWait s = .next t) : s.ackwait.flag = true ∧
    ((inboxMatches s = true ∧ s.retryCount = 0 ∧
        t = (clearInbox (s.clearFlag .ackwait)).emit (.status .acked 0)) ∨
      (inboxMatches s = true ∧ s.retryCount ≠ 0 ∧ s.cfg.baseTel ≠ 0 ∧ s.cfg.baseAck ≠ 0 ∧
        t = (loadBoth s.cfg.baseTel s.cfg.baseAck
          { clearInbox (s.clearFlag .ackwait) with retryCount := 0 }).emit (.status .acked 0)) ∨
      (inboxMatches s = false ∧ t = backedOff (s.clearFlag .ackwait))) := by
  obtain ⟨hf, ⟨hm, h⟩ | ⟨hm, h⟩⟩ := serviceWait_next.mp h
  · rcases matchPath_next.mp h with ⟨a, b⟩ | ⟨a, b, c, d⟩
    · exact ⟨hf, .inl ⟨hm, a, b⟩⟩
    · exact ⟨hf, .inr (.inl ⟨hm, a, b, c, d⟩)⟩
  · exact ⟨hf, .inr (.inr ⟨hm, (noMatchPath_next.mp h).2⟩)⟩

/-! ## After a service: the flags, the configuration, what is presented -/

theorem serviceWait_flags {s t : State} (h : serviceWait s = .next t) :
    t.ackwait.flag = false ∧ t.ackreq.flag = s.ackreq.flag ∧ t.tel.flag = s.tel.flag ∧ t.cfg = s.cfg ∧
      t.env.pending = s.env.pending := by
  obtain ⟨-, ⟨-, h⟩ | ⟨-, h⟩⟩ := serviceWait_next.mp h
  · rcases matchPath_next.mp h with ⟨_, rfl⟩ | ⟨_, _, _, rfl⟩ <;> exact ⟨rfl, rfl, rfl, rfl, rfl⟩
  · obtain ⟨-, rfl⟩ := noMatchPath_next.mp h
    exact ⟨rfl, rfl, rfl, rfl, rfl⟩

theorem serviceReq_flags {s t : State} (h : serviceReq s = .next t) :
    t.ackwait.flag = s.ackwait.flag ∧ t.ackreq.flag = false ∧ t.tel.flag = s.tel.flag ∧ t.cfg = s.cfg ∧
      t.env.pending = s.env.pending := by
  obtain ⟨-, -, rfl⟩ := serviceReq_next.mp h
  exact ⟨rfl, rfl, rfl, rfl, rfl⟩

theorem serviceTel_flags {s t : State} (h : serviceTel s = .next t) :
    t.ackwait.flag = s.ackwait.flag ∧ t.ackreq.flag = s.ackreq.flag ∧ t.tel.flag = false ∧ t.cfg = s.cfg ∧
      t.env.pending = s.env.pending := by
  obtain ⟨-, rfl⟩ := serviceTel_next.mp h
  cases hk : s.draw.ok <;> simp [afterSend, sendFrame, State.clearFlag, clearEvents]

/-! ## When a service completes -/

theorem serviceWait_completes {s : State} (hv : s.cfg.valid = true) (hf : s.ackwait.flag = true) :
    ∃ t, serviceWait s = .next t := by
  have hc := valid_iff.mp hv
  cases hm : inboxMatches s with
  | true =>
    by_cases hr : s.retryCount = 0
    · exact ⟨_, serviceWait_next.mpr ⟨hf, .inl ⟨hm, matchPath_next.mpr (.inl ⟨hr, rfl⟩)⟩⟩⟩
    · exact ⟨_, serviceWait_next.mpr ⟨hf, .inl ⟨hm, matchPath_next.mpr (.inr ⟨hr, hc.1, hc.2.1, rfl⟩)⟩⟩⟩
  | false =>
    exact ⟨_, serviceWait_next.mpr ⟨hf, .inr ⟨hm, noMatchPath_next.mpr ⟨backoffInterval_ne_zero hv _, rfl⟩⟩⟩⟩

/-- How many timer flags are pending. -/
def State.flagCount (s : State) : Nat := s.ackwait.flag.toNat + s.ackreq.flag.toNat + s.tel.flag.toNat

theorem State.flagCount_le (s : State) : s.flagCount ≤ 3 := by
  unfold State.flagCount
  cases s.ackwait.flag <;> cases s.ackreq.flag <;> cases s.tel.flag <;> decide

theorem State.anyFlag_eq_false {s : State} : s.anyFlag = false ↔ s.flagCount = 0 := by
  unfold State.anyFlag State.flagCount
  cases s.ackwait.flag <;> cases s.ackreq.flag <;> cases s.tel.flag <;> decide

/-- A turn of the loop in a legal configuration completes and serves one pending flag, if there is one. -/
theorem poll_completes {s : State} (hv : s.cfg.valid = true) :
    ∃ t, exec .poll s = .next t ∧ t.cfg = s.cfg ∧ t.env.pending = s.env.pending ∧ t.flagCount = s.flagCount - 1 := by
  suffices h : ∃ t, pollTurn (s.withRes .none) = .next t ∧ t.cfg = s.cfg ∧ t.env.pending = s.env.pending ∧
      t.flagCount = s.flagCount - 1 from h
  unfold State.flagCount
  cases h1 : s.ackwait.flag with
  | true =>
    obtain ⟨t, ht⟩ := serviceWait_completes (s := s.withRes .none) hv h1
    obtain ⟨e1, e2, e3, e4, e5⟩ := serviceWait_flags ht
    refine ⟨t, pollTurn_next.mpr (.inl ⟨h1, ht⟩), e4, e5, ?_⟩
    rw [e1, e2, e3]
    simp only [State.withRes_ackreq, State.withRes_tel, Bool.toNat_false, Bool.toNat_true]
    omega
  | false =>
    cases h2 : s.ackreq.flag with
    | true =>
      have ht := serviceReq_next (s := s.withRes .none).mpr ⟨h2, (valid_iff.mp hv).2.2.1, rfl⟩
      obtain ⟨e1, e2, e3, e4, e5⟩ := serviceReq_flags ht
      refine ⟨_, pollTurn_next.mpr (.inr (.inl ⟨h1, h2, ht⟩)), e4, e5, ?_⟩
      rw [e1, e2, e3]
      simp [h1]
    | false =>
      cases h3 : s.tel.flag with
      | true =>
        obtain ⟨t, ht⟩ : ∃ t, serviceTel (s.withRes .none) = .next t := ⟨_, serviceTel_next.mpr ⟨h3, rfl⟩⟩
        obtain ⟨e1, e2, e3, e4, e5⟩ := serviceTel_flags ht
        refine ⟨t, pollTurn_next.mpr (.inr (.inr (.inl ⟨h1, h2, h3, ht⟩))), e4, e5, ?_⟩
        rw [e1, e2, e3]
        simp [h1, h2]
      | false =>
        exact ⟨_, pollTurn_next.mpr (.inr (.inr (.inr ⟨h1, h2, h3, rfl⟩))), rfl, rfl, by simp [h1, h2, h3]⟩

end Sys2Proof.Machine
end

