-- ==== Sys2Proof/Laws/Exec.lean ====
section
/-! SUPPORT. Everything an operation that completes can do: one inversion of `exec`, and the fields after a telemetry service. -/

namespace Sys2Proof.Machine

/-- What operation `i` at state `s` leaves when it completes. -/
def Effect (i : Instr) (s t : State) : Prop :=
  match i with
  | .lutgen => t = { s with lut := fillLut s.cfg s.lut }.withRes .none
  | .crc8 msg => t = s.withRes (.checksum (crc8 s.lut msg))
  | .enct senderId sequence options reading events =>
    t = s.withRes (.frame (encodeTelemetry s.lut senderId sequence options reading events))
  | .deca b0 b1 b2 => t = s.withRes (.ack (decodeAck b0 b1 b2))
  | .matchInbox => t = s.withRes (.matched (inboxMatches s))
  | .recEvent src => t = (recordEvent src s).withRes .none
  | .drain => t = (clearEvents s).withRes (.events s.readEv)
  | .arm u I => I ≠ 0 ∧ t = (s.setTimer u ((s.timer u).load I)).withRes .none
  | .disarm u => t = (s.setTimer u (s.timer u).stop).withRes .none
  | .rearm u I => I ≠ 0 ∧ t = (s.setTimer u ((s.timer u).load I)).withRes .none
  | .tick => (s.anyFlag = false ∧ t = (tickTimers s).withRes .none) ∨ (s.anyFlag = true ∧ t = (holdTick s).withRes .none)
  | .rxd len d0 d1 d2 =>
    (len.toNat = 3 ∧ t = { memWriteList s .inbox 0 [d0, d1, d2] with inboxValid := true }.withRes .none) ∨
    (len.toNat ≠ 3 ∧ t = s.withRes .none)
  | .svctel => serviceTel (s.withRes .none) = .next t
  | .svcreq => serviceReq (s.withRes .none) = .next t
  | .svcwait => serviceWait (s.withRes .none) = .next t
  | .poll => pollTurn (s.withRes .none) = .next t

theorem setTimer_withRes (s : State) (u : TimerId) (v : Timer) (r : Res) :
    (s.withRes r).setTimer u v = (s.setTimer u v).withRes r := by cases u <;> rfl

theorem exec_next {i : Instr} {s t : State} : exec i s = .next t ↔ Effect i s t := by
  cases i with
  | arm u I => simp only [exec, execArm, Effect, armTimer_next, setTimer_withRes, State.timer_withRes]
  | rearm u I => simp only [exec, execRearm, Effect, rearmTimer_next, setTimer_withRes, State.timer_withRes]
  | disarm u =>
    simp only [exec, execDisarm, Effect, disarmTimer, setTimer_withRes, State.timer_withRes, Host.Outcome.next.injEq, eq_comm]
  | tick =>
    simp only [exec, execTick, Effect, State.tickEnabled]
    by_cases hf : s.anyFlag = true
    · simp [hf, eq_comm]
    · simp [hf, eq_comm]
  | rxd len d0 d1 d2 =>
    simp only [exec, execRxd, Effect]
    have hl : len = 3 ↔ len.toNat = 3 := ⟨fun h => by rw [h]; rfl, fun h => BitVec.eq_of_toNat_eq h⟩
    by_cases h : len = 3
    · have h' := hl.mp h
      rw [if_pos h]
      simp [h', eq_comm]
    · have h' : ¬ len.toNat = 3 := fun e => h (hl.mpr e)
      rw [if_neg h]
      simp [h', eq_comm]
  | svctel => rfl
  | svcreq => rfl
  | svcwait => rfl
  | poll => rfl
  | lutgen => simp only [exec, execLutgen, Effect, Host.Outcome.next.injEq, eq_comm]
  | crc8 msg => simp only [exec, execCrc8, Effect, Host.Outcome.next.injEq, eq_comm]
  | enct a b c d e => simp only [exec, execEnct, Effect, Host.Outcome.next.injEq, eq_comm]
  | deca a b c => simp only [exec, execDeca, Effect, Host.Outcome.next.injEq, eq_comm]
  | matchInbox => simp only [exec, execMatchInbox, Effect, Host.Outcome.next.injEq, eq_comm]
  | recEvent src => simp only [exec, execRecEvent, Effect, Host.Outcome.next.injEq, eq_comm]
  | drain => simp only [exec, execDrain, Effect, Host.Outcome.next.injEq, eq_comm]

/-- The fields after a telemetry service (R155, R156), one by one. -/
structure TelFields (s t : State) : Prop where
  cfg         : t.cfg = s.cfg
  seq         : t.seq = s.seq + 1
  options     : t.options = if s.draw.ok then 0x02 else s.options
  ev          : t.ev = 0
  retryCount  : t.retryCount = s.retryCount
  ackInterval : t.ackInterval = s.ackInterval
  pktInterval : t.pktInterval = s.pktInterval
  tel         : t.tel = { s.tel with flag := false }
  ackreq      : t.ackreq = s.ackreq
  ackwait     : t.ackwait = s.ackwait
  inbox       : t.inbox = s.inbox
  inboxValid  : t.inboxValid = s.inboxValid
  lut         : t.lut = s.lut
  txbuf       : t.txbuf = s.txbuf.writeList 0 (frameBytes (telemetryFrame s))
  pending     : t.env.pending = s.env.pending
  res         : t.env.res = s.env.res
  emitted     : t.env.emitted =
    s.env.emitted ++ [.tx (telemetryFrame s)] ++ (if s.draw.ok then [] else [.status .txfail 0])
  drawsListed : ∀ d ds, s.env.draws = d :: ds → t.env.draws = ds ∧ t.env.drawCount = s.env.drawCount
  drawsFree   : s.env.draws = [] → t.env.draws = [] ∧ t.env.drawCount = s.env.drawCount + 1

theorem serviceTel_fields {s t : State} (h : serviceTel s = .next t) : TelFields s t := by
  obtain ⟨-, rfl⟩ := serviceTel_next.mp h
  have hf : telemetryFrame (s.clearFlag .tel) = telemetryFrame s := rfl
  cases hk : s.draw.ok with
  | true =>
    simp only [afterSend, sendFrame, hf]
    constructor
    case options => simp [State.readOptions, State.clearFlag, clearEvents, clear_perSend, hk]
    case drawsListed => intro d ds h; simp [State.dropDraw, State.clearFlag, clearEvents, h]
    case drawsFree => intro h; simp [State.dropDraw, State.clearFlag, clearEvents, h]
    all_goals simp [State.clearFlag, clearEvents, hk]
  | false =>
    simp only [afterSend, sendFrame, hf]
    constructor
    case drawsListed => intro d ds h; simp [State.dropDraw, State.clearFlag, clearEvents, h]
    case drawsFree => intro h; simp [State.dropDraw, State.clearFlag, clearEvents, h]
    all_goals simp [State.clearFlag, clearEvents, hk]

/-- States that agree on every field are equal. -/
theorem State.ext_fields {s t : State}
    (h : t.cfg = s.cfg ∧ t.seq = s.seq ∧ t.options = s.options ∧ t.ev = s.ev ∧ t.retryCount = s.retryCount ∧
      t.ackInterval = s.ackInterval ∧ t.pktInterval = s.pktInterval ∧ t.tel = s.tel ∧ t.ackreq = s.ackreq ∧
      t.ackwait = s.ackwait ∧ t.inbox = s.inbox ∧ t.inboxValid = s.inboxValid ∧ t.lut = s.lut ∧ t.txbuf = s.txbuf ∧
      t.env = s.env) : t = s := by
  cases s
  cases t
  simp_all

end Sys2Proof.Machine
end

