-- ==== Sys2Proof/Laws/PerInstr.lean ====
section
/-! SUPPORT. The family `OpwRow`: the operation word of each operation lies in its row of the operation table
(spec/opcode_table.json: the word under the row's mask is the row's match). -/

namespace Sys2Proof.Laws

/-- A row's mask and match, as the table has them. -/
def tableRow : Instr → Byte × Byte
  | .lutgen => (0xFF, 0x10)
  | .crc8 _ => (0xFF, 0x20)
  | .enct _ _ _ _ _ => (0xFF, 0x30)
  | .deca _ _ _ => (0xFF, 0x40)
  | .matchInbox => (0xFF, 0x50)
  | .recEvent _ => (0xF8, 0x60)
  | .drain => (0xFF, 0x70)
  | .arm _ _ => (0xFC, 0x80)
  | .disarm _ => (0xFC, 0x90)
  | .rearm _ _ => (0xFC, 0xA0)
  | .tick => (0xFF, 0xB0)
  | .rxd _ _ _ _ => (0xFF, 0xC0)
  | .svctel => (0xFF, 0xD0)
  | .svcreq => (0xFF, 0xD1)
  | .svcwait => (0xFF, 0xD2)
  | .poll => (0xFF, 0xE0)

/-- The operation's word, under its row's mask, is its row's match. -/
def OpwRow.Statement (i : Instr) : Prop := encodeWord i &&& (tableRow i).1 = (tableRow i).2

theorem OpwRow.lutgen : OpwRow.Statement .lutgen := by unfold OpwRow.Statement; decide
theorem OpwRow.crc8 (msg : List Byte) : OpwRow.Statement (.crc8 msg) := by
  show opwOf 0x2 0 &&& 0xFF = 0x20; decide
theorem OpwRow.enct (senderId : Half) (sequence options : Byte) (reading : Half) (events : Byte) :
    OpwRow.Statement (.enct senderId sequence options reading events) := by
  show opwOf 0x3 0 &&& 0xFF = 0x30; decide
theorem OpwRow.deca (b0 b1 b2 : Byte) : OpwRow.Statement (.deca b0 b1 b2) := by
  show opwOf 0x4 0 &&& 0xFF = 0x40; decide
theorem OpwRow.matchInbox : OpwRow.Statement .matchInbox := by unfold OpwRow.Statement; decide
theorem OpwRow.recEvent (s : Source) : OpwRow.Statement (.recEvent s) := by
  show opwOf 0x6 s.code &&& 0xF8 = 0x60; cases s <;> decide
theorem OpwRow.drain : OpwRow.Statement .drain := by unfold OpwRow.Statement; decide
theorem OpwRow.arm (t : TimerId) (interval : Word) : OpwRow.Statement (.arm t interval) := by
  show opwOf 0x8 t.code &&& 0xFC = 0x80; cases t <;> decide
theorem OpwRow.disarm (t : TimerId) : OpwRow.Statement (.disarm t) := by
  show opwOf 0x9 t.code &&& 0xFC = 0x90; cases t <;> decide
theorem OpwRow.rearm (t : TimerId) (interval : Word) : OpwRow.Statement (.rearm t interval) := by
  show opwOf 0xA t.code &&& 0xFC = 0xA0; cases t <;> decide
theorem OpwRow.tick : OpwRow.Statement .tick := by unfold OpwRow.Statement; decide
theorem OpwRow.rxd (len : Half) (d0 d1 d2 : Byte) : OpwRow.Statement (.rxd len d0 d1 d2) := by
  show opwOf 0xC 0 &&& 0xFF = 0xC0; decide
theorem OpwRow.svctel : OpwRow.Statement .svctel := by unfold OpwRow.Statement; decide
theorem OpwRow.svcreq : OpwRow.Statement .svcreq := by unfold OpwRow.Statement; decide
theorem OpwRow.svcwait : OpwRow.Statement .svcwait := by unfold OpwRow.Statement; decide
theorem OpwRow.poll : OpwRow.Statement .poll := by unfold OpwRow.Statement; decide

end Sys2Proof.Laws
end

