-- ==== Sys2Proof/Tests/Slice0.lean ====
section
/-! SUPPORT. Tests and witnesses. Expected values come from spec/: the operation words from 30_encoding.md R87, the results from
95_test_vectors.md (the vector is named in each comment) or from the rule named there. -/

namespace Sys2Proof.Tests

open Sys2Proof Sys2Proof.Machine

/-- The next state, if there is one. -/
def after (a : Answer) : Option State :=
  match a with
  | .next s => some s
  | .fault _ => none
  | .refused _ => none

/-- The reason of a refusal, if there is one. -/
def reason (a : Answer) : Option Refusal :=
  match a with
  | .next _ => none
  | .fault _ => none
  | .refused r => some r

/-- A next state with a property that evaluates to true. -/
theorem exists_of_after {a : Answer} {P : State → Bool} (h : (after a).any P = true) : ∃ t, a = .next t ∧ P t = true := by
  cases a with
  | next t => exact ⟨t, rfl, by simpa [after] using h⟩
  | fault e => cases e
  | refused r => simp [after] at h

/-! ## WellFormed: an ill-formed term for each check -/

theorem test_wf_arm_zero : (Instr.arm .tel 0).wellFormed = false ∧ (Instr.arm .tel 1).wellFormed = true := by decide
theorem test_wf_rearm_zero : (Instr.rearm .ackwait 0).wellFormed = false ∧ (Instr.rearm .ackwait 0xFFFFFFFF).wellFormed = true := by
  decide
theorem test_wf_others : Instr.tick.wellFormed = true ∧ (Instr.rxd 0 0 0 0).wellFormed = true := by decide
theorem test_cfg_default : ({} : Cfg).valid = true := by decide
theorem test_cfg_baseTel_zero : ({ baseTel := 0 } : Cfg).valid = false := by decide
theorem test_cfg_baseAck_zero : ({ baseAck := 0 } : Cfg).valid = false := by decide
theorem test_cfg_ackWait_zero : ({ ackWait := 0 } : Cfg).valid = false := by decide
/-- R10's bound: 65536 * 65536 = 2^32 breaks it, 65535 * 65536 keeps it. -/
theorem test_cfg_overflow : ({ baseAck := 65536 } : Cfg).valid = false ∧ ({ baseAck := 65535 } : Cfg).valid = true := by decide

/-! ## Decoding: words written out from R87's table -/

theorem test_decode_lutgen : (decode ⟨0b00010000, 0, []⟩).toOption = some .lutgen := by decide
theorem test_decode_crc8 : (decode ⟨0b00100000, 0, [0xEF, 0xE6]⟩).toOption = some (.crc8 [0xEF, 0xE6]) := by decide
/-- The document's example on the bus in the order of R86. -/
theorem test_decode_enct : (decode ⟨0b00110000, 0xEFE6050200FA01, []⟩).toOption = some (.enct 0xEFE6 0x05 0x02 0x00FA 0x01) := by
  decide
theorem test_decode_deca : (decode ⟨0b01000000, 0x00000000E6EF05, []⟩).toOption = some (.deca 0xE6 0xEF 0x05) := by decide
theorem test_decode_match : (decode ⟨0b01010000, 0, []⟩).toOption = some .matchInbox := by decide
theorem test_decode_rec : ([0x60, 0x61, 0x62, 0x63, 0x64, 0x65, 0x66].map fun w => (decode ⟨w, 0, []⟩).toOption) =
    [.switchA, .switchB, .padUp, .padDown, .padLeft, .padRight, .fire].map fun s => some (.recEvent s) := by decide
theorem test_decode_drain : (decode ⟨0b01110000, 0, []⟩).toOption = some .drain := by decide
theorem test_decode_arm : (decode ⟨0b10000010, 0x00000000000005, []⟩).toOption = some (.arm .ackwait 5) := by decide
theorem test_decode_disarm : (decode ⟨0b10010000, 0, []⟩).toOption = some (.disarm .tel) := by decide
theorem test_decode_rearm : (decode ⟨0b10100001, 0x000000FFFFFFFF, []⟩).toOption = some (.rearm .ackreq 0xFFFFFFFF) := by decide
theorem test_decode_tick : (decode ⟨0b10110000, 0, []⟩).toOption = some .tick := by decide
theorem test_decode_rxd : (decode ⟨0b11000000, 0x00000003E6EF00, []⟩).toOption = some (.rxd 3 0xE6 0xEF 0x00) := by decide
theorem test_decode_services : ([0xD0, 0xD1, 0xD2].map fun w => (decode ⟨w, 0, []⟩).toOption) =
    [some .svctel, some .svcreq, some .svcwait] := by decide
theorem test_decode_poll : (decode ⟨0b11100000, 0, []⟩).toOption = some .poll := by decide
/-- R92's reserved words at their edges (0x67 is D-EV6). -/
theorem test_decode_reserved : ([0x00, 0x0F, 0x11, 0x2F, 0x31, 0x48, 0x51, 0x67, 0x68, 0x71, 0x83, 0x84, 0x93, 0xA3, 0xB1, 0xC1, 0xD3,
    0xDF, 0xE1, 0xF0, 0xFF].all fun w => (decode ⟨w, 0, []⟩).toOption == none) = true := by decide
theorem test_table_word : decodeTableWord 8 0x66 = some (.recEvent .fire) ∧ decodeTableWord 8 0x92 = some (.disarm .ackwait) ∧
    decodeTableWord 8 0xF0 = none := by decide

/-! ## Small states -/

/-- The reset state with only those rows of R115's table that the worked checksum of R113 reads, and the given answers. -/
def base (ds : List Draw := []) : State :=
  { State.reset with
    lut := [(0x0B, 0x31), (0x30, 0x90), (0x39, 0xAF), (0x4A, 0xF1), (0x65, 0x3C), (0xAD, 0x4A), (0xEF, 0x83)]
    env := { Env.initial with draws := ds } }

/-- The inbox with three bytes delivered. -/
def delivered (s : State) (a b c : Byte) : State := { s with inbox := Memory.writeList [] 0 [a, b, c], inboxValid := true }

def flagTel (s : State) : State := { s with tel := { s.tel with flag := true } }
def flagReq (s : State) : State := { s with ackreq := { s.ackreq with flag := true } }
def flagWait (s : State) : State := { s with ackwait := { s.ackwait with flag := true } }

/-! ## One step of each operation -/

/-- D-LUT1 to D-LUT6, and one more row of R115. -/
theorem test_lut_entries : ([0x00, 0x01, 0x02, 0x7F, 0x80, 0xFF, 0x4A].map (genEntry 0x07)) =
    [0x00, 0x07, 0x0E, 0x7A, 0x89, 0xF3, 0xF1] := by decide
/-- R112 with a table taken as given. -/
theorem test_lutgen_given : (after (exec .lutgen { base with cfg := { table := some (Vector.replicate 256 0x00) }, lut := [(3, 9)] })).map
    (·.lut) = some [] := by
  set_option maxRecDepth 20000 in decide
/-- D-CRC11. -/
theorem test_crc8 : (after (exec (.crc8 [0xEF, 0xE6, 0x05, 0x02, 0x00, 0xFA, 0x01]) base)).map (·.env.res) =
    some (.checksum 0x90) := by decide
/-- D-CRC1. -/
theorem test_crc8_empty : (after (exec (.crc8 []) base)).map (·.env.res) = some (.checksum 0x00) := by decide
/-- D-ENC1. -/
theorem test_enct : (after (exec (.enct 0xEFE6 0x05 0x02 0x00FA 0x01) base)).map (·.env.res) =
    some (.frame ⟨0xEF, 0xE6, 0x05, 0x02, 0x00, 0xFA, 0x01, 0x90⟩) := by decide
/-- R121's example. -/
theorem test_deca : (after (exec (.deca 0xE6 0xEF 0x05) base)).map (·.env.res) = some (.ack ⟨0xE6, 0xEF, 0x05⟩) := by decide
/-- D-M1, D-M2, D-M3, D-M5. -/
theorem test_match : ([delivered base 0xE6 0xEF 0x00, delivered base 0xEF 0xE6 0x00, delivered base 0xE6 0xEF 0xFF, base].map
    fun s => (after (exec .matchInbox s)).map (·.env.res)) =
    [some (.matched true), some (.matched false), some (.matched true), some (.matched false)] := by decide
/-- D-M6: an empty inbox does not match the identifier 0; D-M7: a delivered frame of zeros does. -/
theorem test_match_zero : (after (exec .matchInbox { base with cfg := { senderId := 0 } })).map (·.env.res) =
      some (.matched false) ∧
    (after (exec .matchInbox { delivered base 0 0 0 with cfg := { senderId := 0 } })).map (·.env.res) =
      some (.matched true) := by decide
/-- R132's example. -/
theorem test_rec : (after (exec (.recEvent .fire) { base with ev := 0x01 })).map (·.ev) = some 0x41 := by decide
/-- R133's example. -/
theorem test_drain : (after (exec .drain { base with ev := 0x41 })).map (fun s => (s.env.res, s.ev)) =
    some (.events 0x41, 0x00) := by decide
/-- D-T8: arm on an armed timer. -/
theorem test_arm : (after (exec (.arm .tel 7) { base with tel := ⟨true, 10, 3, false⟩ })).map (·.tel) =
    some ⟨true, 7, 7, false⟩ := by decide
/-- D-T7: interval 0 is refused. -/
theorem test_arm_zero : reason (exec (.arm .tel 0) base) = some (.intervalZero .tel) := by decide
/-- D-T5: the posted flag survives. -/
theorem test_disarm : (after (exec (.disarm .tel) { base with tel := ⟨true, 10, 3, true⟩ })).map (·.tel) =
    some ⟨false, 10, 0, true⟩ := by decide
/-- D-T4: the same interval still restarts the phase. -/
theorem test_rearm : (after (exec (.rearm .tel 10) { base with tel := ⟨true, 10, 3, false⟩ })).map (·.tel) =
    some ⟨true, 10, 10, false⟩ := by decide
/-- The last tick of D-T2 and of D-T3 together, and a timer that only counts. -/
theorem test_tick : (after (exec .tick { base with tel := ⟨true, 10, 1, false⟩, ackwait := ⟨true, 5, 1, false⟩ })).map
    (fun s => (s.tel, s.ackreq, s.ackwait)) = some (⟨true, 10, 10, true⟩, ⟨true, 60, 59, false⟩, ⟨false, 5, 0, true⟩) := by decide
/-- R153: held while a flag is pending. -/
theorem test_tick_held : (after (exec .tick (flagTel base))).map (fun s => (s.tel, s.ackreq.count, s.env.pending)) =
    some (⟨true, 10, 10, true⟩, 60, [.operation ⟨0xB0, 0, []⟩]) := by decide
/-- D-S14: a later datagram overwrites. -/
theorem test_rxd : (after (exec (.rxd 3 0x11 0x22 0x33) (delivered base 0xE6 0xEF 0x00))).map (fun s => (s.inbox, s.inboxValid)) =
    some ([(0, 0x11), (1, 0x22), (2, 0x33)], true) := by decide
/-- D-S12, D-S13: other lengths are dropped. -/
theorem test_rxd_dropped : ([2, 8].map fun n => (after (exec (.rxd n 0x11 0x22 0x33) (delivered base 0xE6 0xEF 0x00))).map (·.inbox)) =
    [some [(0, 0xE6), (1, 0xEF)], some [(0, 0xE6), (1, 0xEF)]] := by decide
/-- D-S1. -/
theorem test_svctel : (after (exec .svctel { flagTel (base [⟨0x00FA, true⟩]) with seq := 5, ev := 0x01 })).map
    (fun s => (s.env.emitted, s.seq, s.ev, s.options, s.tel.flag)) =
    some ([.tx ⟨0xEF, 0xE6, 0x05, 0x02, 0x00, 0xFA, 0x01, 0x90⟩], 6, 0x00, 0x02, false) := by decide
/-- D-S3, with sequence 0xFF (R155: the wrap) and the bytes of the frame in `TXBUF`. -/
theorem test_svctel_fails : (after (exec .svctel { flagTel (base [⟨0, false⟩]) with seq := 0xFF, options := 0x03, ev := 0x04 })).map
    (fun s => (s.env.emitted.drop 1, s.seq, s.ev, s.options, (List.range 7).map (memRead s .txbuf))) =
    some ([.status .txfail 0], 0, 0x00, 0x03, [0xEF, 0xE6, 0xFF, 0x03, 0x00, 0x00, 0x04]) := by decide
/-- D-S5. -/
theorem test_svcreq : (after (exec .svcreq (flagReq base))).map (fun s => (s.options, s.ackwait, s.ackreq.flag)) =
    some (0x03, ⟨true, 5, 5, false⟩, false) := by decide
/-- D-S4 and its like: refused with the flag clear. -/
theorem test_services_refused : [Instr.svctel, .svcreq, .svcwait].map (fun i => reason (exec i base)) =
    [some (.flagClear .tel), some (.flagClear .ackreq), some (.flagClear .ackwait)] := by decide
/-- D-S6. -/
theorem test_svcwait_no_match : (after (exec .svcwait (flagWait base))).map
    (fun s => ((s.retryCount, s.options), [s.tel, s.ackreq], [s.ackInterval, s.pktInterval], s.env.emitted)) =
    some ((1, 0x06), [⟨true, 120, 120, false⟩, ⟨true, 120, 120, false⟩], [120, 120], [.status .retrying 1]) := by decide
/-- D-S8. -/
theorem test_svcwait_match : (after (exec .svcwait { delivered (flagWait base) 0xE6 0xEF 0x00 with
      retryCount := 3, tel := ⟨true, 240, 7, false⟩, ackreq := ⟨true, 240, 7, false⟩ })).map
    (fun s => (s.retryCount, [s.tel, s.ackreq], (List.range 3).map (memRead s .inbox), s.env.emitted)) =
    some (0, [⟨true, 10, 10, false⟩, ⟨true, 60, 60, false⟩], [0, 0, 0], [.status .acked 0]) := by decide
/-- D-S15, the first turn: the wait service runs and the other two flags stay. -/
theorem test_poll_priority : (after (exec .poll (flagTel (flagReq (flagWait base))))).map
    (fun s => (s.retryCount, s.ackwait.flag, s.ackreq.flag, s.tel.flag)) = some (1, false, true, true) := by decide
/-- D-S16. -/
theorem test_poll_nothing : exec .poll base = .next (base.withRes .none) :=
  exec_next.mpr (pollTurn_next (s := base.withRes .none).mpr (.inr (.inr (.inr ⟨by decide, by decide, by decide, rfl⟩))))

/-! ## Stepping -/

/-- The word 0xB0 presented at reset is performed. -/
theorem test_step_word : (after (step ((base).withFetchWord 8 0xB0))).map (fun s => (s.tel.count, s.env.pending)) =
    some (9, []) := by decide
/-- A held `TICK` stays presented and the loop takes a turn (R153). -/
theorem test_step_held : (after (step ((flagReq base).withFetchWord 8 0xB0))).map
    (fun s => (s.ackreq.flag, s.tel.count, s.env.pending)) = some (false, 10, [.operation ⟨0xB0, 0, []⟩]) := by decide
/-- A reserved word is refused (R92). -/
theorem test_step_reserved : reason (step ((base).withFetchWord 8 0x67)) = some (.reservedWord 0x67) := by decide

/-! ## Witnesses: for each statement with hypotheses, states and operands that meet them -/

/-- The reset state of a generated table with the given flags, counts of the periodic timers and presented inputs. -/
def calm (poly : Byte) (fw fr ft : Bool) (cr ct : Word) (p : List Input) : State :=
  { State.resetWith { poly := poly } with
    tel := ⟨true, 10, ct, ft⟩
    ackreq := ⟨true, 60, cr, fr⟩
    ackwait := ⟨false, 5, 0, fw⟩
    env := { Env.initial with pending := p, draws := [⟨0x00FA, true⟩] } }

theorem calm_inv (poly : Byte) (fw fr ft : Bool) {cr ct : Word} (p : List Input) (hr : 1 ≤ cr.toNat ∧ cr.toNat ≤ 60)
    (ht : 1 ≤ ct.toNat ∧ ct.toNat ≤ 10) : (calm poly fw fr ft cr ct p).Inv := by
  have hl : (calm poly fw fr ft cr ct p).lut = fillLut { poly := poly } [] := by
    simp only [calm, State.resetWith, State.resetIn_lut]
  have h0 : Memory.wf [] := ⟨by simp, by simp⟩
  refine ⟨?_, ?_, ?_, ?_, fun u => ?_, fun _ a => ?_, fun i => ?_, fun S => ?_⟩
  · show Cfg.valid { poly := poly } = true
    simp [Cfg.valid]
  · show (0x02 : Byte).getLsbD 1 = true ∧ (0x02 : Byte).extractLsb' 3 5 = 0
    decide
  · show (0x00 : Byte).getLsbD 7 = false
    decide
  · exact Nat.zero_le _
  · cases u
    · exact ⟨fun h => (Bool.noConfusion h), fun _ => ht⟩
    · exact ⟨fun h => (Bool.noConfusion h), fun _ => hr⟩
    · exact ⟨fun _ => rfl, fun h => (Bool.noConfusion h)⟩
  · rfl
  · rw [memRead_lut, hl]
    exact fillLut_read_byte _ h0 i
  · cases S
    · simp only [State.space, hl]
      exact ⟨fillLut_wf _ h0, fillLut_within _ (by simp)⟩
    · exact ⟨h0, by simp [State.space, calm, State.resetWith]⟩
    · exact ⟨h0, by simp [State.space, calm, State.resetWith]⟩

theorem calm_loop (poly : Byte) (fw fr ft : Bool) (cr ct : Word) (p : List Input) : (calm poly fw fr ft cr ct p).LoopInv :=
  ⟨⟨rfl, rfl⟩, ⟨rfl, rfl, rfl⟩, fun _ => ⟨rfl, rfl⟩, fun h => absurd rfl h⟩

/-- The word of `TICK` on the port. -/
def tickInput : Input := .operation ⟨0xB0, 0, []⟩

theorem wit_DecodedWord : (decode ⟨0x81, 60, []⟩).toOption = some (.arm .ackreq 60) := by decide

/-- Each clause of R92 at an edge, and a word beside it that is not reserved. -/
theorem wit_ExactlyTheReservedWords :
    (reservedByR92 0x00 ∧ reservedByR92 0xFF) ∧ (reservedByR92 0x1F ∧ ¬ reservedByR92 0x10) ∧
    (reservedByR92 0x67 ∧ reservedByR92 0x68 ∧ ¬ reservedByR92 0x66) ∧
    (reservedByR92 0x83 ∧ reservedByR92 0x84 ∧ ¬ reservedByR92 0x82) ∧ (reservedByR92 0xD3 ∧ ¬ reservedByR92 0xD2) := by
  simp [reservedByR92]

/-- The first and the last byte of each frame, and the document's frame as one word (D-ENC1, R81, R82). -/
theorem wit_WireFrames : 0 < 8 ∧ 7 < 8 ∧ 2 < 3 ∧
    frameWord ⟨0xEF, 0xE6, 0x05, 0x02, 0x00, 0xFA, 0x01, 0x90⟩ = 0xEFE6050200FA0190 ∧ ackWord ⟨0xE6, 0xEF, 0x05⟩ = 0xE6EF05 := by
  decide

theorem wit_StepPerforms : (decode ⟨0xB0, 0, []⟩).toOption = some .tick ∧
    (calm 7 false false false 60 10 [tickInput]).env.pending = tickInput :: [] ∧
    (calm 7 false false false 60 10 [tickInput]).anyFlag = false ∧ decodeTableWord 8 0xE0 = some .poll := by
  refine ⟨by decide, rfl, rfl, by decide⟩

theorem wit_HeldTick : (calm 7 true true true 60 10 [tickInput]).anyFlag = true ∧
    (calm 7 true true true 60 10 [tickInput]).env.pending = .operation ⟨0xB0, 0, []⟩ :: [] := ⟨rfl, rfl⟩

/-- All three flags pending at once: the longest hold. -/
theorem wit_HoldLifts : (calm 7 true true true 60 10 [tickInput]).Inv ∧
    (calm 7 true true true 60 10 [tickInput]).env.pending = .operation ⟨0xB0, 0, []⟩ :: [] ∧
    (calm 7 true true true 60 10 [tickInput]).anyFlag = true :=
  ⟨calm_inv 7 true true true _ (by decide) (by decide), rfl, rfl⟩

theorem wit_IdlePort : State.reset.env.pending = [] := rfl

/-- A legal record at the bound of R10, one just past it, and one with a base of 0. -/
theorem wit_ResetForgets : ({ baseAck := 65535 } : Cfg).valid = true ∧ ({ baseAck := 65536 } : Cfg).valid = false ∧
    ({ baseTel := 0 } : Cfg).valid = false ∧
    (calm 7 true false false 1 1 [.reset { baseAck := 65535 }]).env.pending = .reset { baseAck := 65535 } :: [] ∧
    (calm 7 true false false 1 1 [.reset { baseTel := 0 }]).env.pending = .reset { baseTel := 0 } :: [] :=
  ⟨by decide, by decide, by decide, rfl, rfl⟩

/-- The document's constants, and the case in which both timers have the same period. -/
theorem wit_FirstFrame : (({} : Cfg).valid = true ∧ ({} : Cfg).baseTel.toNat ∣ ({} : Cfg).baseAck.toNat) ∧
    (({ baseTel := 60 } : Cfg).valid = true ∧ ({ baseTel := 60 } : Cfg).baseTel.toNat ∣ ({ baseTel := 60 } : Cfg).baseAck.toNat) := by
  decide

theorem wit_Lutgen : Memory.wf base.lut := by decide
theorem wit_LutgenAgain : (calm 7 false false false 60 10 []).Inv := calm_inv 7 _ _ _ _ (by decide) (by decide)
/-- The last index below 128, and the first not below it. -/
theorem wit_GeneratedTable : (0x7F : Byte).toNat < 128 ∧ ¬ (0x80 : Byte).toNat < 128 := by decide
theorem wit_Crc8 : ∀ i : Byte, memRead (base [⟨1, true⟩]) .lut i.toNat = memRead base .lut i.toNat := fun _ => rfl

theorem wit_MessageWithItsChecksum : (calm 7 false false false 60 10 []).Inv ∧ (calm 7 false false false 60 10 []).cfg.table = none ∧
    ∃ c, exec (.crc8 [0xEF]) (calm 7 false false false 60 10 []) =
      .next ((calm 7 false false false 60 10 []).withRes (.checksum c)) :=
  ⟨calm_inv 7 _ _ _ _ (by decide) (by decide), rfl, _, rfl⟩

theorem wit_DefaultTable : (calm 7 false false false 60 10 []).Inv ∧ (calm 7 false false false 60 10 []).cfg.table = none ∧
    (calm 7 false false false 60 10 []).cfg.poly = 0x07 := ⟨calm_inv 7 _ _ _ _ (by decide) (by decide), rfl, rfl⟩

theorem wit_Enct : (calm 0x31 false false false 60 10 []).Inv ∧ (calm 0x31 false false false 60 10 []).cfg.table = none :=
  ⟨calm_inv _ _ _ _ _ (by decide) (by decide), rfl⟩

theorem wit_FrameDetermines : exec (.enct 0xEFE6 0x05 0x02 0x00FA 0x01) base =
      .next (base.withRes (.frame ⟨0xEF, 0xE6, 0x05, 0x02, 0x00, 0xFA, 0x01, 0x90⟩)) ∧
    exec (.enct 0xEFE6 0x05 0x02 0x00FA 0x01) (flagTel base) =
      .next ((flagTel base).withRes (.frame ⟨0xEF, 0xE6, 0x05, 0x02, 0x00, 0xFA, 0x01, 0x90⟩)) := by
  refine ⟨congrArg (fun f => Host.Outcome.next (base.withRes (.frame f))) (by decide),
    congrArg (fun f => Host.Outcome.next ((flagTel base).withRes (.frame f))) (by decide)⟩

theorem wit_DrainAnswersTheUnion : ∃ t, exec .drain { base with ev := 0x41 } = .next t ∧ (t.ev == 0x00) = true :=
  exists_of_after (P := fun t => t.ev == 0x00) (by decide)

/-- The least and the greatest interval. -/
theorem wit_Arm_Rearm : (1 : Word) ≠ 0 ∧ (0xFFFFFFFF : Word) ≠ 0 := by decide

/-- Each clause of the tick: a periodic timer at count 1, one at count 2, the one-shot timer at count 1, and one not armed. -/
theorem wit_Tick :
    (calm 7 false false false 2 1 []).anyFlag = false ∧ (calm 7 false false false 2 1 []).tel.armed = true ∧
    (calm 7 false false false 2 1 []).tel.count.toNat = 1 ∧ (calm 7 false false false 2 1 []).ackreq.armed = true ∧
    2 ≤ (calm 7 false false false 2 1 []).ackreq.count.toNat ∧ (calm 7 false false false 2 1 []).ackwait.armed = false ∧
    ({ base with ackwait := ⟨true, 5, 1, false⟩ } : State).anyFlag = false ∧
    ({ base with ackwait := ⟨true, 5, 1, false⟩ } : State).ackwait.count.toNat = 1 := by
  refine ⟨rfl, rfl, rfl, rfl, by decide, rfl, rfl, rfl⟩

/-- An interval, and numbers of ticks at the edges: before the expiry, at it, at the second one. -/
theorem wit_TimerExpires : (∃ t, exec .tick base = .next t ∧ (t.tel.count == 9) = true) ∧ base.anyFlag = false ∧ (5 : Word) ≠ 0 ∧
    4 < (5 : Word).toNat ∧ (5 : Word).toNat ≤ 5 ∧ (5 : Word).toNat ≤ 10 :=
  ⟨exists_of_after (P := fun t => t.tel.count == 9) (by decide), rfl, by decide, by decide, by decide, by decide⟩

/-- Each clause of the priority. -/
theorem wit_Poll : (calm 7 true true true 60 10 []).ackwait.flag = true ∧
    ((calm 7 false true true 60 10 []).ackwait.flag = false ∧ (calm 7 false true true 60 10 []).ackreq.flag = true) ∧
    ((calm 7 false false true 60 10 []).ackreq.flag = false ∧ (calm 7 false false true 60 10 []).tel.flag = true) ∧
    (calm 7 false false false 60 10 []).anyFlag = false ∧ (calm 7 true true true 60 10 []).cfg.valid = true ∧
    (calm 7 true true true 60 10 []).nextService = some .ackwait :=
  ⟨rfl, ⟨rfl, rfl⟩, ⟨rfl, rfl⟩, rfl, (calm_inv 7 true true true [] (by decide) (by decide)).cfgValid, rfl⟩

theorem wit_Settle : (calm 7 true true true 60 10 []).Inv := calm_inv 7 _ _ _ _ (by decide) (by decide)

/-- Both send results, and no answer listed. -/
theorem wit_Svctel : (flagTel (base [⟨0x00FA, true⟩])).tel.flag = true ∧ Memory.wf (flagTel (base [⟨0x00FA, true⟩])).txbuf ∧
    (flagTel (base [⟨0x00FA, true⟩])).draw.ok = true ∧ (flagTel (base [⟨0x00FA, false⟩])).draw.ok = false ∧
    (flagTel (base [⟨0x00FA, true⟩])).env.draws = ⟨0x00FA, true⟩ :: [] ∧ (flagTel base).env.draws = [] :=
  ⟨rfl, by decide, rfl, rfl, rfl, rfl⟩

theorem wit_ServicesRefused : base.tel.flag = false ∧ base.ackreq.flag = false ∧ base.ackwait.flag = false := ⟨rfl, rfl, rfl⟩

theorem wit_Svcreq : (flagReq base).ackreq.flag = true ∧ (flagReq base).cfg.ackWait ≠ 0 := ⟨rfl, by decide⟩

/-- Length 3, and its two neighbours. -/
theorem wit_Rxd : Memory.wf (delivered base 0xE6 0xEF 0x00).inbox ∧ (3 : Half).toNat = 3 ∧ (2 : Half).toNat ≠ 3 ∧
    (4 : Half).toNat ≠ 3 := by decide

theorem wit_SvcwaitMatchHealthy : (delivered (flagWait base) 0xE6 0xEF 0x00).ackwait.flag = true ∧
    exec .matchInbox (delivered (flagWait base) 0xE6 0xEF 0x00) =
      .next ((delivered (flagWait base) 0xE6 0xEF 0x00).withRes (.matched true)) ∧
    Memory.wf (delivered (flagWait base) 0xE6 0xEF 0x00).inbox ∧ (delivered (flagWait base) 0xE6 0xEF 0x00).retryCount = 0 :=
  ⟨rfl, congrArg (fun b => Host.Outcome.next ((delivered (flagWait base) 0xE6 0xEF 0x00).withRes (.matched b))) (by decide),
    by decide, rfl⟩

/-- The least and the greatest count of a degraded state. -/
theorem wit_SvcwaitMatchDegraded : ∀ n ∈ [(1 : Half), 65535],
    ({ delivered (flagWait base) 0xE6 0xEF 0x00 with retryCount := n } : State).ackwait.flag = true ∧
    exec .matchInbox { delivered (flagWait base) 0xE6 0xEF 0x00 with retryCount := n } =
      .next (State.withRes { delivered (flagWait base) 0xE6 0xEF 0x00 with retryCount := n } (.matched true)) ∧
    Memory.wf ({ delivered (flagWait base) 0xE6 0xEF 0x00 with retryCount := n } : State).inbox ∧ n ≠ 0 ∧
    base.cfg.baseTel ≠ 0 ∧ base.cfg.baseAck ≠ 0 := by
  intro n hn
  refine ⟨rfl, congrArg
    (fun b => Host.Outcome.next (State.withRes { delivered (flagWait base) 0xE6 0xEF 0x00 with retryCount := n } (.matched b)))
    (a₁ := inboxMatches (delivered (flagWait base) 0xE6 0xEF 0x00)) (by decide),
    (show Memory.wf (delivered base 0xE6 0xEF 0x00).inbox by decide), ?_, by decide, by decide⟩
  rintro rfl
  simp at hn

/-- An empty inbox, at the first count and at the ceiling (D-S10). -/
theorem wit_SvcwaitNoMatch : ∀ n ∈ [(0 : Half), 65535], ({ flagWait base with retryCount := n } : State).ackwait.flag = true ∧
    exec .matchInbox { flagWait base with retryCount := n } =
      .next (State.withRes { flagWait base with retryCount := n } (.matched false)) ∧
    ({ flagWait base with retryCount := n } : State).cfg.valid = true := by
  intro n _
  refine ⟨rfl, congrArg (fun b => Host.Outcome.next (State.withRes { flagWait base with retryCount := n } (.matched b)))
    (a₁ := inboxMatches (flagWait base)) (by decide), (show base.cfg.valid = true by decide)⟩

/-- Each clause: a wait acknowledged; an operation, and a dropped datagram at each neighbour of length 3, on an inbox that is not
valid; a wait on such an inbox. -/
theorem wit_OneAcknowledgement : (∃ t, exec .svcwait (delivered (flagWait base) 0xE6 0xEF 0x00) = .next t ∧
      (t.env.emitted == base.env.emitted ++ [.status .acked 0]) = true) ∧
    base.inboxValid = false ∧ (∃ v, exec (.recEvent .fire) base = .next v ∧ (v.ev == 0x40) = true) ∧
    ((2 : Half).toNat ≠ 3 ∧ (4 : Half).toNat ≠ 3) ∧ (∃ v, exec (.rxd 2 0xE6 0xEF 0) base = .next v ∧ (v.inboxValid == false) = true) ∧
    (∃ v, exec .svcwait (flagWait base) = .next v ∧ (v.retryCount == 1) = true) := by
  refine ⟨?_, by decide, ?_, by decide, ?_, ?_⟩
  · exact exists_of_after (a := exec .svcwait (delivered (flagWait base) 0xE6 0xEF 0x00))
      (P := fun t => t.env.emitted == base.env.emitted ++ [.status .acked 0]) (by decide)
  · exact exists_of_after (P := fun v => v.ev == 0x40) (by decide)
  · exact exists_of_after (P := fun v => v.inboxValid == false) (by decide)
  · exact exists_of_after (P := fun v => v.retryCount == 1) (by decide)

/-- Each clause's premise: a telemetry service (sequence, frame buffer, options, events, flag cleared), a failed wait (count,
interval registers), a datagram, a table written again, a flag set by a tick. -/
theorem wit_RegistersHaveOnlyTheirNamedWriters :
    (∃ t, exec .svctel { flagTel (base [⟨0x00FA, true⟩]) with ev := 0x01, options := 0x03 } = .next t ∧
      (t.seq != 0 && t.txbuf != [] && t.options != 0x03 && t.ev != 0x01 && !t.tel.flag) = true) ∧
    (∃ t, exec .svcwait (flagWait base) = .next t ∧ (t.retryCount != 0 && t.ackInterval != 60 && t.pktInterval != 10) = true) ∧
    (∃ t, exec (.rxd 3 1 2 3) base = .next t ∧ (t.inbox != [] && t.inboxValid) = true) ∧
    (∃ t, exec .tick { base with tel := ⟨true, 10, 1, false⟩ } = .next t ∧ t.tel.flag = true) ∧
    (∃ t, exec .lutgen { base with cfg := { table := some (Vector.replicate 256 0x00) }, lut := [(3, 9)] } = .next t ∧
      (t.lut != [(3, 9)]) = true) :=
  ⟨exists_of_after (P := fun t => t.seq != 0 && t.txbuf != [] && t.options != 0x03 && t.ev != 0x01 && !t.tel.flag) (by decide),
    exists_of_after (P := fun t => t.retryCount != 0 && t.ackInterval != 60 && t.pktInterval != 10) (by decide),
    exists_of_after (P := fun t => t.inbox != [] && t.inboxValid) (by decide),
    exists_of_after (P := fun t => t.tel.flag) (by decide),
    exists_of_after (P := fun t => t.lut != [(3, 9)]) (by set_option maxRecDepth 20000 in decide)⟩

theorem wit_EveryOperation : State.reset.cfg.valid = true := by decide

theorem wit_SentFrames_ConsecutiveFrames : ∃ t, exec .svctel (flagTel (base [⟨0x00FA, true⟩])) = .next t ∧
    (t.env.emitted.any fun o => match o with | .tx _ => true | .status _ _ => false) = true :=
  exists_of_after (P := fun t => t.env.emitted.any fun o => match o with | .tx _ => true | .status _ _ => false) (by decide)

theorem wit_ByteSpace : Memory.wf [(0, 0x11), (255, 0x22)] := by decide

theorem wit_ResetMeets : ({} : Cfg).valid = true ∧ ({} : Cfg).baseTel.toNat ∣ ({} : Cfg).baseAck.toNat := by decide

theorem wit_EveryStepKeeps : (calm 7 false false false 1 1 [tickInput]).Inv ∧
    ∃ t, step (calm 7 false false false 1 1 [tickInput]) = .next t ∧ (t.tel.flag && t.ackreq.flag) = true :=
  ⟨calm_inv 7 _ _ _ _ (by decide) (by decide), exists_of_after (P := fun t => t.tel.flag && t.ackreq.flag) (by decide)⟩

/-- A sequencer-only step of a state in both invariants and in phase, at the tick in which both periodic timers expire. -/
theorem wit_SequencerOnly_Together : (calm 7 false false false 1 1 [tickInput]).Inv ∧
    (calm 7 false false false 1 1 [tickInput]).LoopInv ∧ (calm 7 false false false 1 1 [tickInput]).InPhase ∧
    (calm 7 false false false 1 1 [tickInput]).cfg.retryMax ≠ 0 ∧
    (calm 7 false false false 1 1 [tickInput]).cfg.baseTel.toNat ∣ (calm 7 false false false 1 1 [tickInput]).cfg.baseAck.toNat ∧
    sequencerOnly (calm 7 false false false 1 1 [tickInput]) = true ∧
    (∃ t, step (calm 7 false false false 1 1 [tickInput]) = .next t ∧ t.ackreq.flag = true) ∧
    (calm 7 false false false 1 1 [tickInput]).ackreq.flag = false :=
  ⟨calm_inv 7 _ _ _ _ (by decide) (by decide), calm_loop _ _ _ _ _ _ _, ⟨fun _ => rfl, fun _ => rfl⟩, by decide,
    ⟨6, by decide⟩, by decide, exists_of_after (P := fun t => t.ackreq.flag) (by decide), rfl⟩

theorem wit_PresentedRuns : (calm 7 true true true 60 10 [tickInput, .operation ⟨0xC0, 0x00000003E6EF00, []⟩, .reset {}]).Inv ∧
    ∀ x ∈ [tickInput, Input.operation ⟨0xC0, 0x00000003E6EF00, []⟩, .reset {}], presentable x = true :=
  ⟨calm_inv 7 _ _ _ _ (by decide) (by decide), by decide⟩

/-- Both kinds of record, at the first and the last index. -/
theorem wit_TableIsGivenOrGenerated : ({} : Cfg).table = none ∧
    ({ table := some (Vector.replicate 256 0x5A) } : Cfg).table = some (Vector.replicate 256 0x5A) ∧
    (0x00 : Byte).toNat = 0 ∧ (0xFF : Byte).toNat = 255 := ⟨rfl, rfl, rfl, rfl⟩

/-- Each clause's premise: an interval changed by `ARM` and a timer armed by it, a timer stopped by `DISARM` and by its one-shot
expiry, a count changed by `TICK`, and the two services that load timers. -/
theorem wit_TimersHaveOnlyTheirNamedWriters :
    (∃ t, exec (.arm .ackwait 7) base = .next t ∧ (t.ackwait.interval != 5 && t.ackwait.armed && t.ackwait.count != 0) = true) ∧
    (∃ t, exec (.disarm .tel) base = .next t ∧ (!t.tel.armed && t.tel.count != 10) = true) ∧
    (∃ t, exec .tick { base with ackwait := ⟨true, 5, 1, false⟩ } = .next t ∧ (!t.ackwait.armed && t.tel.count != 10) = true) ∧
    (∃ t, exec .svcreq (flagReq base) = .next t ∧ t.ackwait.armed = true) ∧
    (∃ t, exec .svcwait (flagWait base) = .next t ∧ (t.tel.interval != 10 && t.ackreq.interval != 60) = true) :=
  ⟨exists_of_after (P := fun t => t.ackwait.interval != 5 && t.ackwait.armed && t.ackwait.count != 0) (by decide),
    exists_of_after (P := fun t => !t.tel.armed && t.tel.count != 10) (by decide),
    exists_of_after (P := fun t => !t.ackwait.armed && t.tel.count != 10) (by decide),
    exists_of_after (P := fun t => t.ackwait.armed) (by decide),
    exists_of_after (P := fun t => t.tel.interval != 10 && t.ackreq.interval != 60) (by decide)⟩

/-- A matching inbox (D-M1), and inboxes that fail one condition each: not valid, byte 0 wrong, byte 1 wrong (D-M4). -/
theorem wit_SvcwaitCompletes :
    (delivered (flagWait base) 0xE6 0xEF 0x00).ackwait.flag = true ∧ (flagWait base).ackwait.flag = true ∧
    base.cfg.valid = true ∧
    ((delivered base 0xE6 0xEF 0x00).inboxValid = true ∧
      (memRead (delivered base 0xE6 0xEF 0x00) .inbox 0).toNat = base.cfg.senderId.toNat % 256 ∧
      (memRead (delivered base 0xE6 0xEF 0x00) .inbox 1).toNat = base.cfg.senderId.toNat / 256) ∧
    base.inboxValid = false ∧
    (memRead (delivered base 0xE5 0xEF 0x00) .inbox 0).toNat ≠ base.cfg.senderId.toNat % 256 ∧
    (memRead (delivered base 0xE6 0xEE 0x00) .inbox 1).toNat ≠ base.cfg.senderId.toNat / 256 := by
  decide

/-- The first and the last source. -/
theorem wit_SevenSources :
    (Source.switchA, 0) ∈ [(Source.switchA, 0), (.switchB, 1), (.padUp, 2), (.padDown, 3), (.padLeft, 4), (.padRight, 5), (.fire, 6)] ∧
    (Source.fire, 6) ∈ [(Source.switchA, 0), (.switchB, 1), (.padUp, 2), (.padDown, 3), (.padLeft, 4), (.padRight, 5), (.fire, 6)] := by
  decide

/-- A frame leaves the block by `SVCTEL` and by the `POLL` that serves it. -/
theorem wit_OutboundFrame :
    (∃ t, exec .svctel (flagTel (base [⟨0x00FA, true⟩])) = .next t ∧
      (t.env.emitted.any fun o => match o with | .tx _ => true | .status _ _ => false) = true) ∧
    ∃ t, exec .poll (flagTel (base [⟨0x00FA, true⟩])) = .next t ∧
      (t.env.emitted.any fun o => match o with | .tx _ => true | .status _ _ => false) = true :=
  ⟨exists_of_after (P := fun t => t.env.emitted.any fun o => match o with | .tx _ => true | .status _ _ => false) (by decide),
    exists_of_after (P := fun t => t.env.emitted.any fun o => match o with | .tx _ => true | .status _ _ => false) (by decide)⟩

end Sys2Proof.Tests
end

section
/-! The telemetry frame's bytes (30_encoding.md R81), and which frames an operation sends: O56. -/

namespace Sys2Proof.Machine

/-! ## The bytes of a frame -/

/-- `F` carries the eight bytes in wire order, byte 0 in the high bits (R81). -/
theorem frameBytes_getD_eq_extractLsb' (f : Frame) {k : Nat} (hk : k < 8) :
    (frameBytes f).getD k 0 = (frameWord f).extractLsb' (56 - 8 * k) 8 := by
  unfold frameWord
  interval_cases k
  · -- Byte 0 is what is left once all seven bytes after it are dropped.
    repeat rw [BitVec.extractLsb'_append_eq_of_le (by decide)]
    exact BitVec.extractLsb'_eq_self.symm
  -- Every other byte ends an append, once the bytes after it are dropped.
  all_goals
    repeat rw [BitVec.extractLsb'_append_eq_of_le (by decide)]
    exact BitVec.extractLsb'_append_eq_right.symm

/-! ## The frames an operation sends -/

/-- The outputs that `t` has beyond those of `s` hold no frame but the telemetry frame of `s`. -/
def SendsOnlyTelemetry (s t : State) : Prop :=
  ∃ new : List Output, t.env.emitted = s.env.emitted ++ new ∧ ∀ f : Frame, .tx f ∈ new → f = telemetryFrame s

theorem SendsOnlyTelemetry.of_silent {s t : State} (h : t.env.emitted = s.env.emitted) : SendsOnlyTelemetry s t :=
  ⟨[], by simp [h], by simp⟩

theorem SendsOnlyTelemetry.of_status {s t : State} {c : StatusCode} {a : Half}
    (h : t.env.emitted = s.env.emitted ++ [.status c a]) : SendsOnlyTelemetry s t :=
  ⟨_, h, by simp⟩

/-- The result bus takes no part in what is sent. -/
theorem SendsOnlyTelemetry.of_withRes {s t : State} {r : Res} (h : SendsOnlyTelemetry (s.withRes r) t) :
    SendsOnlyTelemetry s t := h

theorem serviceWait_sendsOnlyTelemetry {s t : State} (h : serviceWait s = .next t) : SendsOnlyTelemetry s t := by
  obtain ⟨-, ⟨-, -, rfl⟩ | ⟨-, -, -, -, rfl⟩ | ⟨-, rfl⟩⟩ := serviceWait_cases h
  · exact .of_status (c := .acked) (a := 0) rfl
  · exact .of_status (c := .acked) (a := 0) rfl
  · exact .of_status (c := .retrying) rfl

theorem serviceReq_sendsOnlyTelemetry {s t : State} (h : serviceReq s = .next t) : SendsOnlyTelemetry s t := by
  obtain ⟨-, -, rfl⟩ := serviceReq_next.mp h
  exact .of_silent rfl

theorem serviceTel_sendsOnlyTelemetry {s t : State} (h : serviceTel s = .next t) : SendsOnlyTelemetry s t := by
  refine ⟨_, (serviceTel_fields h).emitted.trans (List.append_assoc ..), ?_⟩
  intro f hf
  cases hk : s.draw.ok <;> simpa [hk] using hf

theorem pollTurn_sendsOnlyTelemetry {s t : State} (h : pollTurn s = .next t) : SendsOnlyTelemetry s t := by
  obtain ⟨-, h⟩ | ⟨-, -, h⟩ | ⟨-, -, -, h⟩ | ⟨-, -, -, rfl⟩ := pollTurn_next.mp h
  · exact serviceWait_sendsOnlyTelemetry h
  · exact serviceReq_sendsOnlyTelemetry h
  · exact serviceTel_sendsOnlyTelemetry h
  · exact .of_silent rfl

/-- Only the services write the outputs, and of these only the telemetry service sends a frame (R155). -/
theorem exec_sendsOnlyTelemetry {i : Instr} {s t : State} (h : exec i s = .next t) : SendsOnlyTelemetry s t := by
  have h := exec_next.mp h
  cases i with
  | svctel => exact .of_withRes (serviceTel_sendsOnlyTelemetry h)
  | svcreq => exact .of_withRes (serviceReq_sendsOnlyTelemetry h)
  | svcwait => exact .of_withRes (serviceWait_sendsOnlyTelemetry h)
  | poll => exact .of_withRes (pollTurn_sendsOnlyTelemetry h)
  | tick =>
    obtain ⟨-, rfl⟩ | ⟨-, rfl⟩ := h
    · exact .of_silent rfl
    · exact .of_silent rfl
  | rxd len d0 d1 d2 =>
    obtain ⟨-, rfl⟩ | ⟨-, rfl⟩ := h
    · exact .of_silent rfl
    · exact .of_silent rfl
  | arm u I | rearm u I =>
    obtain ⟨-, rfl⟩ := h
    exact .of_silent (by simp)
  | disarm u =>
    obtain rfl := h
    exact .of_silent (by simp)
  | lutgen | crc8 | enct | deca | matchInbox | recEvent | drain =>
    obtain rfl := h
    exact .of_silent rfl

/-! ## O56 -/

/-- Settles O56: `ENCT` lays the bytes out by its definition, and a frame that leaves the block is `telemetryFrame` of the state
before the operation, whose options and events are read through their hardwired bits. -/
theorem outboundFrameHasTheTabledBytes : Obligations.OutboundFrameHasTheTabledBytes := by
  unfold Obligations.OutboundFrameHasTheTabledBytes
  constructor
  · intro senderId sequence options reading events s
    have byte {k : Nat} (hk : k < 8) :=
      frameBytes_getD_eq_extractLsb' (encodeTelemetry s.lut senderId sequence options reading events) hk
    have checksum := byte (k := 7) (by decide)
    refine ⟨_, _, rfl, rfl, rfl, fun _ => byte, (byte (k := 0) (by decide)).symm, (byte (k := 1) (by decide)).symm,
      (byte (k := 2) (by decide)).symm, (byte (k := 3) (by decide)).symm, (byte (k := 4) (by decide)).symm,
      (byte (k := 5) (by decide)).symm, (byte (k := 6) (by decide)).symm, ?_⟩
    rw [← checksum]
    rfl
  · intro i s t h
    obtain ⟨new, hnew, honly⟩ := exec_sendsOnlyTelemetry h
    refine ⟨new, hnew, fun f hf => ?_⟩
    obtain rfl := honly f hf
    obtain ⟨hbit, hreserved⟩ := hardwireOptions_bits s.options
    exact ⟨hbit, hreserved, hardwireEv_bit7 s.ev, s.draw.sensor, rfl⟩

end Sys2Proof.Machine
end

section
/-! The checksum fold and the frame that `ENCT` builds (40_checksum.md R110, R113, R114; 41_frame_codec.md R120): O16, O19. -/

namespace Sys2Proof.Machine

/-! ## An operation that only answers -/

/-- Putting a result on the bus writes no state: the frame of `CRC8`, `ENCT`, `DECA` and `MATCH`. -/
theorem State.withRes_writes_only_res (s : State) (r : Res) :
    OnlyRes s (s.withRes r) r ∧ SameBlock s (s.withRes r) ∧ SameBytes s (s.withRes r) :=
  ⟨rfl, rfl, fun S a => memRead_congr rfl rfl rfl S a⟩

theorem exec_crc8 (msg : List Byte) (s : State) :
    exec (.crc8 msg) s = .next (s.withRes (.checksum (crc8 s.lut msg))) := exec_next.mpr rfl

theorem exec_enct (senderId : Half) (sequence options : Byte) (reading : Half) (events : Byte) (s : State) :
    exec (.enct senderId sequence options reading events) s =
      .next (s.withRes (.frame (encodeTelemetry s.lut senderId sequence options reading events))) := exec_next.mpr rfl

/-! ## The checksum (R113) -/

/-- One byte is looked up at its own value, since the accumulator starts at 0. -/
theorem crc8_singleton (lut : Memory) (b : Byte) : crc8 lut [b] = lut.read b.toNat := by
  simpa using crc8_append lut [] b

/-- A run of zero bytes stays at entry 0 of the table (R114 (d)). -/
theorem crc8_replicate_zero {lut : Memory} (h : lut.read 0 = 0) (n : Nat) : crc8 lut (List.replicate n 0) = 0 := by
  induction n with
  | zero => rfl
  | succ n ih =>
    rw [List.replicate_succ', crc8_append, ih]
    exact h

/-- Entry 0 of a generated table is 0 (R112). -/
theorem State.Inv.lut_read_zero {s : State} (hs : s.Inv) (hgen : s.cfg.table = none) : s.lut.read 0 = 0 := by
  have h : s.lut.read 0 = tableEntry s.cfg 0 := hs.lut 0
  rw [h, tableEntry, hgen]
  exact genEntry_zero s.cfg.poly

/-! ## The frame (R81, R120) -/

theorem hiByte_eq_ofNat_div (v : Half) : hiByte v = BitVec.ofNat 8 (v.toNat / 256) := by
  rw [← hiByte_toNat, BitVec.ofNat_toNat, BitVec.setWidth_eq]

theorem loByte_eq_ofNat_mod (v : Half) : loByte v = BitVec.ofNat 8 (v.toNat % 256) := by
  rw [← loByte_toNat, BitVec.ofNat_toNat, BitVec.setWidth_eq]

/-- A frame is the seven bytes its checksum covers, then their checksum. -/
theorem frameBytes_encodeTelemetry (lut : Memory) (senderId : Half) (sequence options : Byte) (reading : Half)
    (events : Byte) :
    frameBytes (encodeTelemetry lut senderId sequence options reading events) =
      frameHead senderId sequence options reading events ++
        [crc8 lut (frameHead senderId sequence options reading events)] := rfl

theorem frameHead_zero : frameHead 0 0 0 0 0 = List.replicate 7 0 := by decide

theorem encodeTelemetry_zero {lut : Memory} (h : lut.read 0 = 0) :
    encodeTelemetry lut 0 0 0 0 0 = ⟨0, 0, 0, 0, 0, 0, 0, 0⟩ := by
  have hcrc : crc8 lut (frameHead 0 0 0 0 0) = 0 := by rw [frameHead_zero, crc8_replicate_zero h]
  simp only [encodeTelemetry, hcrc]
  decide

/-- The word 0x30 reads `ENCT`'s five operands where the encoder puts them, and nothing of the byte stream (log 6). -/
theorem decode_opdEnct (senderId : Half) (sequence options : Byte) (reading : Half) (events : Byte) (msg : List Byte) :
    decode ⟨0x30, opdEnct senderId sequence options reading events, msg⟩ =
      .ok (.enct senderId sequence options reading events) := by
  have hword : (0x30 : Byte) = opwOf 0x3 0 := by decide
  simp [hword, decode, exactArg, opdEnct_senderId, opdEnct_sequence, opdEnct_options, opdEnct_reading, opdEnct_events]

/-! ## O16, O19 -/

/-- Settles O16: the fold over the table of `s` is the code, and it reads the same of every state with that table. -/
theorem crc8FoldsTheTableLeftToRight : Obligations.Crc8FoldsTheTableLeftToRight := by
  unfold Obligations.Crc8FoldsTheTableLeftToRight
  intro s
  refine ⟨crc8 s.lut, crc8_nil s.lut, ?_, crc8_append s.lut, crc8_singleton s.lut, ?_⟩
  · intro u hu msg
    have hcrc : crc8 u.lut msg = crc8 s.lut msg := crc8_congr hu msg
    rw [exec_crc8, hcrc]
  · intro msg
    exact ⟨_, exec_crc8 msg s, s.withRes_writes_only_res _⟩

/-- Settles O19: the frame is `encodeTelemetry`, whose checksum `CRC8` answers for its first seven bytes; a generated table's
entry 0 is 0, so seven zero bytes have checksum 0. -/
theorem enctBuildsTheFrame : Obligations.EnctBuildsTheFrame := by
  unfold Obligations.EnctBuildsTheFrame
  refine ⟨decode_opdEnct, ?_, ?_⟩
  · intro senderId sequence options reading events s
    obtain ⟨hres, hblock, hbytes⟩ := s.withRes_writes_only_res
      (.frame (encodeTelemetry s.lut senderId sequence options reading events))
    refine ⟨_, _, exec_enct senderId sequence options reading events s, hres, hblock, hbytes, ?_, ?_, ?_⟩
    · rw [← hiByte_eq_ofNat_div, ← loByte_eq_ofNat_mod, ← hiByte_eq_ofNat_div, ← loByte_eq_ofNat_mod]
      rfl
    · rfl
    · rw [frameBytes_encodeTelemetry]
      exact exec_crc8 (frameHead senderId sequence options reading events) s
  · intro s hs hgen
    rw [exec_enct, encodeTelemetry_zero (hs.lut_read_zero hgen)]

end Sys2Proof.Machine
end

section
/-! The event bits of the seven sources, and what one `REC` does (42_event_accumulator.md R131, R132): O55. -/

namespace Sys2Proof.Machine

/-! ## The bit of a source -/

/-- R131's table of bit positions pairs each source with its id and with nothing else. -/
theorem mem_sourceBits_iff (src : Source) (n : Nat) :
    (src, n) ∈ [(Source.switchA, 0), (.switchB, 1), (.padUp, 2), (.padDown, 3), (.padLeft, 4), (.padRight, 5), (.fire, 6)] ↔
      n = src.code.toNat := by
  cases src <;> simp [Source.code]

theorem code_toNat_lt_seven (src : Source) : src.code.toNat < 7 := by
  cases src <;> decide

theorem sourceMask_getLsbD (src : Source) (k : Nat) :
    (sourceMask src).getLsbD k = decide (k = src.code.toNat) := by
  have hmask : sourceMask src = BitVec.twoPow 8 src.code.toNat := rfl
  have hlt : src.code.toNat < 8 := Nat.lt_succ_of_lt (code_toNat_lt_seven src)
  simp [hmask, BitVec.getLsbD_twoPow, hlt, eq_comm]

/-! ## The effect of `REC` -/

/-- A recorded event is read back: the mask of a source does not touch the hardwired bit 7. -/
theorem readEv_recordEvent (src : Source) (s : State) : (recordEvent src s).readEv = s.readEv ||| sourceMask src := by
  have hbit7 : (s.readEv ||| sourceMask src).getLsbD 7 = false := by
    have hlt := code_toNat_lt_seven src
    have hev : s.readEv.getLsbD 7 = false := hardwireEv_bit7 s.ev
    rw [BitVec.getLsbD_or, hev, sourceMask_getLsbD, Bool.false_or, decide_eq_false (by omega)]
  rw [State.readEv, recordEvent_ev, hardwireEv_idem, hardwireEv_of_bit7 hbit7]

theorem recordEvent_readEv_getLsbD (src : Source) (s : State) (k : Nat) :
    (recordEvent src s).readEv.getLsbD k = (decide (k = src.code.toNat) || s.readEv.getLsbD k) := by
  rw [readEv_recordEvent, BitVec.getLsbD_or, sourceMask_getLsbD, Bool.or_comm]

theorem exec_recEvent (src : Source) (s : State) :
    exec (.recEvent src) s = .next ((recordEvent src s).withRes .none) := exec_next.mpr rfl

/-- `REC` writes `EV` and the result bus only (R132). -/
theorem recordEvent_withRes_frame (src : Source) (s : State) :
    { (recordEvent src s).withRes .none with ev := s.ev, env := s.env } = s ∧
      SameBytes s ((recordEvent src s).withRes .none) ∧ OnlyRes s ((recordEvent src s).withRes .none) .none :=
  ⟨rfl, fun S a => memRead_congr rfl rfl rfl S a, rfl⟩

/-! ## O55 -/

/-- Settles O55: R131's table is the source's id, and `REC` sets the bit at that id. -/
theorem sevenSourcesHaveTheirBits : Obligations.SevenSourcesHaveTheirBits := by
  unfold Obligations.SevenSourcesHaveTheirBits
  constructor
  · intro src
    exact ⟨src.code.toNat, (mem_sourceBits_iff src _).mpr rfl, fun n => (mem_sourceBits_iff src n).mp⟩
  · rintro ⟨src, n⟩ hmem s
    obtain rfl := (mem_sourceBits_iff src n).mp hmem
    exact ⟨_, exec_recEvent src s, recordEvent_readEv_getLsbD src s, recordEvent_withRes_frame src s⟩

end Sys2Proof.Machine
end

section
/-! Decoding against encoding, the reserved words, and the wire frames as words (30_encoding.md R81 to R92): O1, O2, O3, O5, O20,
O51; O4's clauses about the decoder. -/

namespace Sys2Proof

/-! ## The nibbles of a word as numbers (R85) -/

theorem opcOf_toNat (w : Byte) : (opcOf w).toNat = w.toNat / 16 := by
  have hw := w.isLt
  simp only [opcOf, BitVec.extractLsb'_toNat, Nat.shiftRight_eq_div_pow]
  omega

theorem argOf_toNat (w : Byte) : (argOf w).toNat = w.toNat % 16 := by
  simp [argOf]

/-- A word is put together from its `OPC`, given as a number, and its `ARG`. -/
theorem eq_opwOf_of_nibbles {w : Byte} {n : Nat} {arg : BitVec 4} (hopc : (opcOf w).toNat = n) (harg : argOf w = arg) :
    w = opwOf (BitVec.ofNat 4 n) arg := by
  subst hopc harg
  rw [BitVec.ofNat_toNat, BitVec.setWidth_eq, opwOf_opcOf_argOf]

/-! ## What each group of rows decodes to, and when it does not -/

theorem exactArg_eq_ok {w : Byte} {arg : BitVec 4} {i j : Instr} : exactArg w arg i = .ok j ↔ argOf w = arg ∧ i = j := by
  by_cases h : argOf w = arg <;> simp [exactArg, h]

theorem exactArg_eq_error {w : Byte} {arg : BitVec 4} {i : Instr} {e : DecodeError} :
    exactArg w arg i = .error e ↔ argOf w ≠ arg ∧ e = .reservedWord w := by
  by_cases h : argOf w = arg <;> simp [exactArg, h, eq_comm]

theorem timerArg_eq_ok {w : Byte} {f : TimerId → Instr} {j : Instr} :
    timerArg w f = .ok j ↔ ∃ t, timerOfArg (argOf w) = some t ∧ f t = j := by
  unfold timerArg
  cases timerOfArg (argOf w) <;> simp

theorem timerArg_eq_error {w : Byte} {f : TimerId → Instr} {e : DecodeError} :
    timerArg w f = .error e ↔ timerOfArg (argOf w) = none ∧ e = .reservedWord w := by
  unfold timerArg
  cases timerOfArg (argOf w) <;> simp [eq_comm]

theorem sourceArg_eq_ok {w : Byte} {f : Source → Instr} {j : Instr} :
    sourceArg w f = .ok j ↔ ∃ s, sourceOfArg (argOf w) = some s ∧ f s = j := by
  unfold sourceArg
  cases sourceOfArg (argOf w) <;> simp

theorem sourceArg_eq_error {w : Byte} {f : Source → Instr} {e : DecodeError} :
    sourceArg w f = .error e ↔ sourceOfArg (argOf w) = none ∧ e = .reservedWord w := by
  unfold sourceArg
  cases sourceOfArg (argOf w) <;> simp [eq_comm]

/-- The service a word names is the one whose `ARG` it carries. -/
theorem serviceArg_eq_ok {w : Byte} {j : Instr} : serviceArg w = .ok j ↔
    (argOf w = 0 ∧ j = .svctel) ∨ (argOf w = 1 ∧ j = .svcreq) ∨ (argOf w = 2 ∧ j = .svcwait) := by
  unfold serviceArg
  generalize argOf w = arg
  split
  · next h => simp [BitVec.eq_of_toNat_eq (y := 0#4) h, eq_comm]
  · next h => simp [BitVec.eq_of_toNat_eq (y := 1#4) h, eq_comm]
  · next h => simp [BitVec.eq_of_toNat_eq (y := 2#4) h, eq_comm]
  · next h0 h1 h2 =>
    have ne {k : BitVec 4} (hk : arg.toNat ≠ k.toNat) : arg ≠ k := fun h => hk (h ▸ rfl)
    simp [ne (k := 0#4) h0, ne (k := 1#4) h1, ne (k := 2#4) h2]

theorem serviceArg_eq_error {w : Byte} {e : DecodeError} : serviceArg w = .error e ↔
    ((argOf w).toNat ≠ 0 ∧ (argOf w).toNat ≠ 1 ∧ (argOf w).toNat ≠ 2) ∧ e = .reservedWord w := by
  unfold serviceArg
  split <;> simp_all [eq_comm]

theorem timerOfArg_eq_none {arg : BitVec 4} : timerOfArg arg = none ↔ arg.toNat % 4 = 3 ∨ 4 ≤ arg.toNat := by
  revert arg; decide

theorem sourceOfArg_eq_none {arg : BitVec 4} : sourceOfArg arg = none ↔ arg.toNat = 7 ∨ 8 ≤ arg.toNat := by
  revert arg; decide

theorem arg_ne_zero_iff {arg : BitVec 4} : arg ≠ 0 ↔ arg.toNat ≠ 0 := by
  revert arg; decide

/-! ## The decoder as a whole -/

/-- The operations that take an operand from the bus or from the stream (R86). -/
def readsBus : Instr → Bool
  | .crc8 _ | .enct _ _ _ _ _ | .deca _ _ _ | .arm _ _ | .rearm _ _ | .rxd _ _ _ _ => true
  | .lutgen | .matchInbox | .recEvent _ | .drain | .disarm _ | .tick | .svctel | .svcreq | .svcwait | .poll => false

/-- The word alone decides every other operation (log 6). -/
theorem decode_encodeWord {i : Instr} (hi : readsBus i = false) (opd : BitVec 56) (msg : List Byte) :
    decode ⟨encodeWord i, opd, msg⟩ = .ok i := by
  cases i with
  | recEvent s => simp [decode, encodeWord, sourceArg]
  | disarm t => simp [decode, encodeWord, timerArg]
  | svctel | svcreq | svcwait => simp [decode, encodeWord, serviceArg]
  | lutgen | matchInbox | drain | tick | poll => simp [decode, encodeWord, exactArg]
  | crc8 | enct | deca | arm | rearm | rxd => simp [readsBus] at hi

/-- `CRC8` takes the stream and leaves the bus alone (log 6). -/
theorem decode_crc8 (opd : BitVec 56) (msg : List Byte) : decode ⟨encodeWord (.crc8 msg), opd, msg⟩ = .ok (.crc8 msg) := by
  simp [decode, encodeWord, exactArg]

/-- The word of `DECA` decodes whatever the bus carries (log 6). -/
theorem decode_deca (opd : BitVec 56) (msg : List Byte) :
    decode ⟨opwOf 0x4 0, opd, msg⟩ =
      .ok (.deca (opd.extractLsb' 16 8) (opd.extractLsb' 8 8) (opd.extractLsb' 0 8)) := by
  simp [decode, exactArg]

theorem decode_encode (i : Instr) : decode (encode i) = .ok i := by
  cases i with
  | enct senderId sequence options reading events => exact Machine.decode_opdEnct senderId sequence options reading events []
  | deca b0 b1 b2 =>
    simp [decode, encode, encodeWord, encodeOpd, exactArg, opdDeca_b0, opdDeca_b1, opdDeca_b2]
  | rxd len d0 d1 d2 =>
    simp [decode, encode, encodeWord, encodeOpd, exactArg, opdRxd_len, opdRxd_d0, opdRxd_d1, opdRxd_d2]
  | arm t interval | rearm t interval =>
    simp [decode, encode, encodeWord, encodeOpd, timerArg, opdInterval_interval]
  | crc8 msg => exact decode_crc8 _ msg
  | disarm | recEvent | svctel | svcreq | svcwait | lutgen | matchInbox | drain | tick | poll =>
    exact decode_encodeWord rfl _ _

theorem opw_eq_encodeWord_of_decode {x : Issue} {i : Instr} (h : decode x = .ok i) : x.opw = encodeWord i := by
  unfold decode at h
  -- One branch for each row of R87, and the last for the words of no row.
  split at h
  case h_6 hopc =>
    obtain ⟨s, harg, rfl⟩ := sourceArg_eq_ok.mp h
    exact eq_opwOf_of_nibbles hopc (code_of_sourceOfArg harg).symm
  case h_8 hopc | h_9 hopc | h_10 hopc =>
    obtain ⟨t, harg, rfl⟩ := timerArg_eq_ok.mp h
    exact eq_opwOf_of_nibbles hopc (code_of_timerOfArg harg).symm
  case h_13 hopc =>
    obtain ⟨harg, rfl⟩ | ⟨harg, rfl⟩ | ⟨harg, rfl⟩ := serviceArg_eq_ok.mp h <;> exact eq_opwOf_of_nibbles hopc harg
  case h_15 => simp at h
  all_goals
    next hopc =>
      obtain ⟨harg, rfl⟩ := exactArg_eq_ok.mp h
      exact eq_opwOf_of_nibbles hopc harg

/-- The decoder fails on R92's words only, and then it names the word. -/
theorem decode_eq_error {x : Issue} {e : DecodeError} :
    decode x = .error e ↔ Machine.reservedByR92 x.opw ∧ e = .reservedWord x.opw := by
  simp only [Machine.reservedByR92, ← opcOf_toNat, ← argOf_toNat]
  unfold decode
  split
  case h_6 hopc => simp [sourceArg_eq_error, sourceOfArg_eq_none, hopc]
  case h_8 hopc | h_9 hopc | h_10 hopc => simp [timerArg_eq_error, timerOfArg_eq_none, hopc]
  case h_13 hopc => simp [serviceArg_eq_error, hopc]
  case h_15 =>
    have hopc : (opcOf x.opw).toNat = 0 ∨ (opcOf x.opw).toNat = 15 := by
      have hlt := (opcOf x.opw).isLt
      simp only [imp_false] at *
      omega
    obtain hopc | hopc := hopc <;> simp [hopc, eq_comm]
  all_goals
    next hopc => simp [exactArg_eq_error, ← arg_ne_zero_iff, hopc]

/-! ## O1, O2, O3, O51 -/

/-- Settles O1: each operation's row is met, and each operand is read from the lines it was put on. -/
theorem decodeOfEncodeIsTheInstruction : Obligations.DecodeOfEncodeIsTheInstruction := decode_encode

/-- Settles O2: the branch of the decoder gives `OPC`, its answer gives `ARG`. -/
theorem decodedWordIsTheInstructionsWord : Obligations.DecodedWordIsTheInstructionsWord :=
  fun _ _ => opw_eq_encodeWord_of_decode

/-- Settles O3: but for the stream of `CRC8`, these operations are decided by their words. -/
theorem fullWordsDecode : Obligations.FullWordsDecode := by
  unfold Obligations.FullWordsDecode
  intro opd msg
  have word {i : Instr} (hi : readsBus i = false) := decode_encodeWord hi opd msg
  exact ⟨word (i := .lutgen) rfl, decode_crc8 opd msg, word (i := .matchInbox) rfl, word (i := .recEvent .fire) rfl,
    word (i := .drain) rfl, word (i := .disarm .ackwait) rfl, word (i := .tick) rfl, word (i := .svctel) rfl,
    word (i := .svcreq) rfl, word (i := .svcwait) rfl, word (i := .poll) rfl⟩

/-- Settles O51: each of these words and buses is what the encoder presents. -/
theorem operandWordsDecode : Obligations.OperandWordsDecode := by
  unfold Obligations.OperandWordsDecode
  refine ⟨fun I => ⟨decode_encode (.arm .tel I), decode_encode (.arm .ackreq I), decode_encode (.arm .ackwait I),
      decode_encode (.rearm .tel I), decode_encode (.rearm .ackreq I), decode_encode (.rearm .ackwait I)⟩,
    ⟨decode_encode (.disarm .tel), decode_encode (.disarm .ackreq), decode_encode (.disarm .ackwait)⟩,
    fun b0 b1 b2 => decode_encode (.deca b0 b1 b2), fun len d0 d1 d2 => decode_encode (.rxd len d0 d1 d2)⟩

/-! ## The wire frames: O5, O20 -/

open Sys2Proof.Machine

/-- `A` carries the three bytes in wire order, byte 0 in the high bits (R82). -/
theorem ackBytes_getD_eq_extractLsb' (a : AckFrame) {k : Nat} (hk : k < 3) :
    (ackWord a).extractLsb' (16 - 8 * k) 8 = [a.peerByte0, a.peerByte1, a.peerByte2].getD k 0 := by
  unfold ackWord
  interval_cases k
  · rw [BitVec.extractLsb'_append_eq_of_le (by decide), BitVec.extractLsb'_append_eq_of_le (by decide)]
    exact BitVec.extractLsb'_eq_self
  · rw [BitVec.extractLsb'_append_eq_of_le (by decide)]
    exact BitVec.extractLsb'_append_eq_right
  · exact BitVec.extractLsb'_append_eq_right

/-- Settles O5. -/
theorem wireFramesAreLaidOutHighByteFirst : Obligations.WireFramesAreLaidOutHighByteFirst :=
  ⟨fun f _ hk => (frameBytes_getD_eq_extractLsb' f hk).symm, fun a _ hk => ackBytes_getD_eq_extractLsb' a hk⟩

/-- A 16-bit value is known from its two bytes. -/
theorem eq_of_hiByte_loByte {v w : Half} (hhi : hiByte v = hiByte w) (hlo : loByte v = loByte w) : v = w := by
  rw [← joinBytes_hi_lo v, hhi, hlo, joinBytes_hi_lo]

/-- The answer of `ENCT` is the frame it builds. -/
theorem encodeTelemetry_of_exec {s : State} {senderId : Half} {sequence options : Byte} {reading : Half} {events : Byte}
    {f : Frame}
    (h : exec (.enct senderId sequence options reading events) s = .next (s.withRes (.frame f))) :
    f = encodeTelemetry s.lut senderId sequence options reading events := by
  rw [exec_enct] at h
  have hres := congrArg (fun t => t.env.res) (Host.Outcome.next.inj h)
  exact (Res.frame.inj hres).symm

/-- Settles O20: the seven bytes are the operands, the two 16-bit ones cut in halves. -/
theorem frameDeterminesItsOperands : Obligations.FrameDeterminesItsOperands := by
  unfold Obligations.FrameDeterminesItsOperands
  intro s u id id' q q' o o' r r' e e' f f' hf hf' hbytes
  obtain rfl := encodeTelemetry_of_exec hf
  obtain rfl := encodeTelemetry_of_exec hf'
  have hhead : frameHead id q o r e = frameHead id' q' o' r' e' := hbytes
  simp only [frameHead, List.cons.injEq, and_true] at hhead
  obtain ⟨hidHi, hidLo, hq, ho, hrHi, hrLo, he⟩ := hhead
  exact ⟨eq_of_hiByte_loByte hidHi hidLo, hq, ho, eq_of_hiByte_loByte hrHi hrLo, he⟩

end Sys2Proof
end

section
/-! The byte spaces, the lookup table, the checksum's laws and the reset state (10_state.md R40; 20_memory.md R60; 40_checksum.md
R110 to R114; 70_reset_and_hazards.md R210): O10, O13, O14, O15, O17, O18, O45, O46, O52. -/

namespace Sys2Proof.Machine

/-! ## The table (R111, R112) -/

theorem Memory.wf_nil : Memory.wf [] := ⟨List.Pairwise.nil, by simp⟩

theorem Memory.ok_nil (size : Nat) : Memory.ok size [] := ⟨Memory.wf_nil, by simp⟩

theorem tableEntry_of_none {c : Cfg} (h : c.table = none) (i : Byte) : tableEntry c i = genEntry c.poly i := by
  rw [tableEntry, h]

theorem tableEntry_of_some {c : Cfg} {v : Vector Byte 256} (h : c.table = some v) (i : Byte) :
    tableEntry c i = v[i.toNat]'i.isLt := by
  rw [tableEntry, h]
  rfl

theorem exec_lutgen (s : State) :
    exec .lutgen s = .next ({ s with lut := fillLut s.cfg s.lut }.withRes .none) := exec_next.mpr rfl

/-- Where the table already holds `CFG.TABLE`, filling it again leaves the same contents (D5). -/
theorem State.Inv.fillLut_lut {s : State} (hs : s.Inv) : fillLut s.cfg s.lut = s.lut := by
  have hwf : s.lut.wf := (hs.spaces .lut).1
  refine Memory.ext_read (fillLut_wf s.cfg hwf) hwf fun a => ?_
  rw [fillLut_read s.cfg hwf]
  split
  · next ha =>
    have hentry := hs.lut (BitVec.ofNat 8 a)
    rw [BitVec.toNat_ofNat, Nat.mod_eq_of_lt ha] at hentry
    exact hentry.symm
  · rfl

theorem resetIn_memRead_lut (c : Cfg) (e : Env) (i : Byte) : memRead (State.resetIn c e) .lut i.toNat = tableEntry c i := by
  rw [memRead_lut, State.resetIn_lut, fillLut_read_byte c Memory.wf_nil]

/-! ## The generator (R112) -/

/-- Bit 7 decides a step, which is whether the value is below 128. -/
theorem genStep_eq_ite (poly r : Byte) : genStep poly r = if r.toNat < 128 then r <<< 1 else (r <<< 1) ^^^ poly := by
  have hbit : r.getLsbD 7 = !decide (r.toNat < 128) := by revert r; decide
  rw [genStep, hbit]
  by_cases h : r.toNat < 128 <;> simp [h]

/-- Seven steps shift the 1 up to bit 7; the eighth drops it and leaves the polynomial. -/
theorem genEntry_one (poly : Byte) : genEntry poly 1 = poly := by
  have hseven : genSteps poly 7 1 = 0x80 := by simp [genSteps, genStep]
  rw [genEntry, genSteps_succ, hseven, genStep_eq_ite]
  simp

/-- Below 128 doubling the index is the first of nine steps from it. -/
theorem genEntry_shiftLeft_one (poly : Byte) {i : Byte} (hi : i.toNat < 128) :
    genEntry poly (i <<< 1) = genStep poly (genEntry poly i) := by
  have hstep : genStep poly i = i <<< 1 := by rw [genStep_eq_ite, if_pos hi]
  calc genEntry poly (i <<< 1) = genSteps poly 9 i := by rw [← hstep]; rfl
    _ = genStep poly (genEntry poly i) := genSteps_succ poly 8 i

/-! ## The checksum under a generated table (R114) -/

/-- The checksum with each entry generated where it is read. -/
def generatedCrc (poly : Byte) (msg : List Byte) : Byte := msg.foldl (fun acc b => genEntry poly (acc ^^^ b)) 0

theorem State.Inv.crc8_eq_generatedCrc {s : State} (hs : s.Inv) (hgen : s.cfg.table = none) (msg : List Byte) :
    crc8 s.lut msg = generatedCrc s.cfg.poly msg := by
  have hstep : crcStep s.lut = fun acc b => genEntry s.cfg.poly (acc ^^^ b) := by
    funext acc b
    exact (hs.lut (acc ^^^ b)).trans (tableEntry_of_none hgen _)
  rw [crc8, hstep, generatedCrc]

/-- The answer of `CRC8` is the checksum. -/
theorem crc8_of_exec {s : State} {msg : List Byte} {c : Byte} (h : exec (.crc8 msg) s = .next (s.withRes (.checksum c))) :
    crc8 s.lut msg = c := by
  rw [exec_crc8] at h
  have hres := congrArg (fun t => t.env.res) (Host.Outcome.next.inj h)
  exact Res.checksum.inj hres

/-- A message and its checksum cancel, which leaves entry 0 of the table. -/
theorem crc8_append_crc8 {lut : Memory} (h : lut.read 0 = 0) (msg : List Byte) : crc8 lut (msg ++ [crc8 lut msg]) = 0 := by
  rw [crc8_append, BitVec.xor_self]
  exact h

/-! ## The timers and the invariants at reset -/

theorem one_le_toNat {I : Word} (hI : I ≠ 0) : 1 ≤ I.toNat := by bv_omega

theorem Timer.sane_loaded {I : Word} (hI : I ≠ 0) (flag : Bool) : Timer.sane ⟨true, I, I, flag⟩ :=
  ⟨fun h => Bool.noConfusion h, fun _ => ⟨one_le_toNat hI, Nat.le_refl _⟩⟩

theorem Timer.sane_stopped (I : Word) (flag : Bool) : Timer.sane ⟨false, I, 0, flag⟩ :=
  ⟨fun _ => rfl, fun h => Bool.noConfusion h⟩

theorem resetIn_inv {c : Cfg} (hc : c.valid = true) (e : Env) : (State.resetIn c e).Inv := by
  obtain ⟨htel, hack, -, -⟩ := valid_iff.mp hc
  constructor
  case cfgValid => simpa using hc
  case options => rw [State.resetIn_options]; decide
  case ev => rw [State.resetIn_ev]; decide
  case retryCount => simp
  case timers =>
    intro u
    cases u with
    | tel => simpa using Timer.sane_loaded htel false
    | ackreq => simpa using Timer.sane_loaded hack false
    | ackwait => simpa using Timer.sane_stopped c.ackWait false
  case inboxEmpty =>
    intro _ a
    rw [memRead_inbox, State.resetIn_inbox]
    rfl
  case lut => exact resetIn_memRead_lut c e
  case spaces =>
    intro S
    cases S with
    | lut =>
      simp only [State.space, State.resetIn_lut]
      exact ⟨fillLut_wf c Memory.wf_nil, fillLut_within c (by simp)⟩
    | inbox => exact Memory.ok_nil 3
    | txbuf => exact Memory.ok_nil 8

theorem resetIn_loopInv (c : Cfg) (e : Env) : (State.resetIn c e).LoopInv := by
  constructor <;> simp

theorem resetIn_inPhase {c : Cfg} (hdvd : c.baseTel.toNat ∣ c.baseAck.toNat) (e : Env) : (State.resetIn c e).InPhase := by
  constructor
  · intro _
    simp [Nat.mod_eq_zero_of_dvd hdvd]
  · simp

/-! ## O10, O13, O14, O15, O17, O18, O45, O46, O52 -/

/-- Settles O45. -/
theorem byteSpaceReadAfterWrite : Obligations.ByteSpaceReadAfterWrite :=
  ⟨fun _ a b v hm => ⟨Memory.wf_write hm a v, Memory.read_write hm a v b⟩, fun _ _ => Memory.ext_read⟩

/-- Settles O13. -/
theorem lutgenWritesTheTable : Obligations.LutgenWritesTheTable := by
  unfold Obligations.LutgenWritesTheTable
  intro s hwf
  refine ⟨_, exec_lutgen s, fun i => ?_, fun a ha => ?_, fun a => ?_, fun a => ?_, ?_, rfl⟩
  · rw [memRead_lut, State.withRes_lut, fillLut_read_byte s.cfg hwf]
  · rw [memRead_lut, State.withRes_lut, fillLut_read s.cfg hwf, if_neg (Nat.not_lt.mpr ha), memRead_lut]
  · rw [memRead_inbox, State.withRes_inbox, memRead_inbox]
  · rw [memRead_txbuf, State.withRes_txbuf, memRead_txbuf]
  · simp

/-- Settles O14: the table holds `CFG.TABLE` already, and canonical contents that read alike are equal. -/
theorem lutgenAgainChangesNothing : Obligations.LutgenAgainChangesNothing := by
  unfold Obligations.LutgenAgainChangesNothing
  intro s hs
  have hexec : exec .lutgen s = .next (s.withRes .none) := by rw [exec_lutgen, hs.fillLut_lut]
  obtain ⟨hres, hblock, hbytes⟩ := s.withRes_writes_only_res .none
  exact ⟨_, hexec, hblock, hbytes, hres⟩

/-- Settles O15: eight linear steps of the generator. -/
theorem generatedTableIsLinear : Obligations.GeneratedTableIsLinear := by
  unfold Obligations.GeneratedTableIsLinear
  intro poly
  refine ⟨genEntry_zero poly, genEntry_one poly, fun i hi => ?_, genSteps_xor poly 8⟩
  rw [genEntry_shiftLeft_one poly hi, genStep_eq_ite]

/-- Settles O17: both come down to entry 0 of the table, which a generated table has at 0. -/
theorem messageWithItsChecksumHasResidueZero : Obligations.MessageWithItsChecksumHasResidueZero := by
  unfold Obligations.MessageWithItsChecksumHasResidueZero
  intro s hs hgen
  have hzero := hs.lut_read_zero hgen
  constructor
  · intro n
    rw [exec_crc8, crc8_replicate_zero hzero]
  · intro msg c h
    obtain rfl := crc8_of_exec h
    rw [exec_crc8, crc8_append_crc8 hzero]

/-- Settles O18: nine entries generated from 0x07. -/
theorem defaultTableGivesTheCheckValue : Obligations.DefaultTableGivesTheCheckValue := by
  unfold Obligations.DefaultTableGivesTheCheckValue
  intro s hs hgen hpoly
  have hvalue : generatedCrc 0x07 [0x31, 0x32, 0x33, 0x34, 0x35, 0x36, 0x37, 0x38, 0x39] = 0xF4 := by
    simp [generatedCrc, genEntry, genSteps, genStep_eq_ite]
  rw [exec_crc8, hs.crc8_eq_generatedCrc hgen, hpoly, hvalue]

/-- Settles O52. -/
theorem tableIsGivenOrGenerated : Obligations.TableIsGivenOrGenerated := by
  unfold Obligations.TableIsGivenOrGenerated
  intro c i
  have hlut := resetIn_memRead_lut c Env.initial i
  constructor
  · intro hnone
    exact ⟨tableEntry_of_none hnone i, hlut.trans (tableEntry_of_none hnone i)⟩
  · intro v hsome
    exact ⟨tableEntry_of_some hsome i, hlut.trans (tableEntry_of_some hsome i)⟩

/-- Settles O10: the fields of `State.resetIn`, and the defaults of the record. -/
theorem resetHoldsTheTabledValues : Obligations.ResetHoldsTheTabledValues := by
  unfold Obligations.ResetHoldsTheTabledValues
  refine ⟨fun c => ?_, by decide⟩
  refine ⟨rfl, rfl, rfl, rfl, rfl, rfl, rfl, rfl, rfl, rfl, fun _ => rfl, rfl, fun _ => rfl, resetIn_memRead_lut c Env.initial,
    rfl⟩

/-- Settles O46. -/
theorem resetMeetsTheInvariants : Obligations.ResetMeetsTheInvariants :=
  fun c e hc => ⟨resetIn_inv hc e, resetIn_loopInv c e, fun hdvd => resetIn_inPhase hdvd e⟩

end Sys2Proof.Machine
end

section
/-! Which transition a step makes, the hold of `TICK` and the turns of the loop (20_memory.md R66; 44_sequencer.md R150 to R153;
60_exceptions.md R196): O4, O6, O7, O8, O9, O11, O31, O32, O34. -/

namespace Sys2Proof.Machine

/-! ## The transition that comes next -/

theorem step_idle {s : State} (hp : s.env.pending = []) : step s = exec .poll s := by
  simp [step, nextMove, hp]

theorem step_reserved {s : State} {x : Issue} {rest : List Input} (hp : s.env.pending = .operation x :: rest)
    (hw : reservedByR92 x.opw) : step s = .refused (.reservedWord x.opw) := by
  have hdec : decode x = .error (.reservedWord x.opw) := decode_eq_error.mpr ⟨hw, rfl⟩
  simp [step, nextMove, hp, hdec]

theorem step_held {s : State} {x : Issue} {rest : List Input} {i : Instr} (hp : s.env.pending = .operation x :: rest)
    (hdec : decode x = .ok i) (hheld : held i s = true) : step s = exec .poll s := by
  simp [step, nextMove, hp, hdec, hheld]

theorem step_operation {s : State} {x : Issue} {rest : List Input} {i : Instr} (hp : s.env.pending = .operation x :: rest)
    (hdec : decode x = .ok i) (hheld : held i s = false) : step s = exec i (s.withPending rest) := by
  simp [step, nextMove, hp, hdec, hheld]

theorem step_reset {s : State} {c : Cfg} {rest : List Input} (hp : s.env.pending = .reset c :: rest) :
    step s = launch c { s.env with pending := rest, res := .none } := by
  simp [step, nextMove, hp]

/-- Only a `TICK` under a pending flag is held (R153). -/
theorem held_eq_false {i : Instr} {s : State} : held i s = false ↔ (i = .tick → s.anyFlag = false) := by
  rw [← Bool.not_eq_true, held_eq_true]
  simp

/-! ## What stays presented -/

theorem pollTurn_pending {s t : State} (h : pollTurn s = .next t) : t.env.pending = s.env.pending := by
  obtain ⟨-, h⟩ | ⟨-, -, h⟩ | ⟨-, -, -, h⟩ | ⟨-, -, -, rfl⟩ := pollTurn_next.mp h
  · exact (serviceWait_flags h).2.2.2.2
  · exact (serviceReq_flags h).2.2.2.2
  · exact (serviceTel_flags h).2.2.2.2
  · rfl

/-- An operation that is not held leaves what is presented after it. -/
theorem exec_pending {i : Instr} {s t : State} (hheld : held i s = false) (h : exec i s = .next t) :
    t.env.pending = s.env.pending := by
  have h := exec_next.mp h
  cases i with
  | svctel => exact (serviceTel_flags h).2.2.2.2
  | svcreq => exact (serviceReq_flags h).2.2.2.2
  | svcwait => exact (serviceWait_flags h).2.2.2.2
  | poll => exact pollTurn_pending (s := s.withRes .none) h
  | tick =>
    obtain ⟨-, rfl⟩ | ⟨hflag, -⟩ := h
    · rfl
    · simp [held_eq_false, hflag] at hheld
  | rxd =>
    obtain ⟨-, rfl⟩ | ⟨-, rfl⟩ := h
    · rfl
    · rfl
  | arm | rearm =>
    obtain ⟨-, rfl⟩ := h
    simp
  | disarm =>
    obtain rfl := h
    simp
  | lutgen | crc8 | enct | deca | matchInbox | recEvent | drain =>
    obtain rfl := h
    rfl

/-! ## Turns of the loop until no flag is pending -/

theorem State.anyFlag_of_flagCount_succ {s : State} {n : Nat} (h : s.flagCount = n + 1) : s.anyFlag = true := by
  rw [← Bool.not_eq_false, State.anyFlag_eq_false]
  omega

theorem settleFor_of_anyFlag {s : State} (n : Nat) (h : s.anyFlag = true) :
    settleFor (n + 1) s = andThen (exec .poll s) (settleFor n) := by
  rw [settleFor, if_pos h]

theorem settleFor_of_noFlag {s : State} (n : Nat) (h : s.anyFlag = false) : settleFor n s = .next s := by
  cases n <;> simp [settleFor, h]

/-- As many turns as flags are pending serve them all. -/
theorem settleFor_completes (n : Nat) {s : State} (hv : s.cfg.valid = true) (hn : s.flagCount ≤ n) :
    ∃ t, settleFor n s = .next t ∧ t.anyFlag = false := by
  induction n generalizing s with
  | zero => exact ⟨s, rfl, State.anyFlag_eq_false.mpr (Nat.le_zero.mp hn)⟩
  | succ n ih =>
    cases hflag : s.anyFlag with
    | false => exact ⟨s, settleFor_of_noFlag (n + 1) hflag, hflag⟩
    | true =>
      obtain ⟨u, hpoll, hcfg, -, hcount⟩ := poll_completes hv
      obtain ⟨t, ht, hdone⟩ := ih (s := u) (hcfg ▸ hv) (by omega)
      exact ⟨t, by rw [settleFor_of_anyFlag n hflag, hpoll, andThen_of_next, ht], hdone⟩

theorem run_succ {s u : State} (k : Nat) (h : step s = .next u) :
    Host.Core.run Sys2Proof.core (k + 1) s = Host.Core.run Sys2Proof.core k u := by
  have hcore : Sys2Proof.core.step s = .next u := h
  simp only [Host.Core.run, hcore]

/-- Under a waiting `TICK` the machine takes as many turns as flags are pending, and the `TICK` stays first. -/
theorem run_held {x : Issue} {rest : List Input} (hdec : decode x = .ok .tick) (n : Nat) {s : State}
    (hv : s.cfg.valid = true) (hp : s.env.pending = .operation x :: rest) (hn : s.flagCount = n) :
    ∃ t : State, Host.Core.run Sys2Proof.core n s = .next t ∧ t.env.pending = s.env.pending ∧ t.anyFlag = false := by
  induction n generalizing s with
  | zero => exact ⟨s, rfl, rfl, State.anyFlag_eq_false.mpr hn⟩
  | succ n ih =>
    obtain ⟨u, hpoll, hcfg, hpending, hcount⟩ := poll_completes hv
    have hheld : held .tick s = true := held_eq_true.mpr ⟨rfl, State.anyFlag_of_flagCount_succ hn⟩
    have hstep : step s = .next u := (step_held hp hdec hheld).trans hpoll
    obtain ⟨t, hrun, ht, hdone⟩ := ih (s := u) (hcfg ▸ hv) (hpending.trans hp) (by omega)
    exact ⟨t, (run_succ n hstep).trans hrun, ht.trans hpending, hdone⟩

/-! ## The services and the loop -/

theorem serviceTel_of_clear {s : State} (h : s.tel.flag = false) : serviceTel s = .refused (.flagClear .tel) := by
  simp [serviceTel, h]

theorem serviceReq_of_clear {s : State} (h : s.ackreq.flag = false) : serviceReq s = .refused (.flagClear .ackreq) := by
  simp [serviceReq, h]

theorem serviceWait_of_clear {s : State} (h : s.ackwait.flag = false) : serviceWait s = .refused (.flagClear .ackwait) := by
  simp [serviceWait, h]

theorem nextService_of_wait {s : State} (hwait : s.ackwait.flag = true) : s.nextService = some .ackwait := by
  simp [State.nextService, hwait]

theorem nextService_of_req {s : State} (hwait : s.ackwait.flag = false) (hreq : s.ackreq.flag = true) :
    s.nextService = some .ackreq := by
  simp [State.nextService, hwait, hreq]

theorem nextService_of_tel {s : State} (hwait : s.ackwait.flag = false) (hreq : s.ackreq.flag = false)
    (htel : s.tel.flag = true) : s.nextService = some .tel := by
  simp [State.nextService, hwait, hreq, htel]

theorem anyFlag_eq_false_iff {s : State} :
    s.anyFlag = false ↔ s.ackwait.flag = false ∧ s.ackreq.flag = false ∧ s.tel.flag = false := by
  simp [State.anyFlag, and_assoc]

theorem nextService_of_noFlag {s : State} (h : s.anyFlag = false) : s.nextService = none := by
  obtain ⟨hwait, hreq, htel⟩ := anyFlag_eq_false_iff.mp h
  simp [State.nextService, hwait, hreq, htel]

/-- `POLL` is the service of the first pending flag. -/
theorem exec_poll_of_nextService {s : State} {u : TimerId} (h : s.nextService = some u) :
    exec .poll s = exec (serviceOf u) s := by
  have hturn : (s.withRes .none).nextService = some u := h
  simp only [exec, execPoll, pollTurn, hturn]
  cases u <;> rfl

/-- With nothing to serve `POLL` does nothing. -/
theorem exec_poll_of_none {s : State} (h : s.nextService = none) : exec .poll s = .next (s.withRes .none) := by
  have hturn : (s.withRes .none).nextService = none := h
  simp only [exec, execPoll, pollTurn, hturn]

/-- A service clears its own flag. -/
theorem exec_serviceOf_flag {s t : State} {u : TimerId} (h : exec (serviceOf u) s = .next t) : t.flag u = false := by
  have h := exec_next.mp h
  cases u with
  | tel => exact (serviceTel_flags h).2.2.1
  | ackreq => exact (serviceReq_flags h).2.1
  | ackwait => exact (serviceWait_flags h).1

/-! ## O4, O6, O7, O8, O9, O11, O31, O32, O34 -/

/-- Settles O4: the decoder fails on R92's words only, and a step on such a word stops there. -/
theorem exactlyTheReservedWordsAreRefused : Obligations.ExactlyTheReservedWordsAreRefused := by
  unfold Obligations.ExactlyTheReservedWordsAreRefused
  refine ⟨fun x => ?_, fun x hx => ?_, fun s x rest hp hw => step_reserved hp hw⟩
  · simp [decode_eq_error]
  · cases hdec : decode x with
    | ok i => exact ⟨i, rfl⟩
    | error e => exact absurd (decode_eq_error.mp hdec).1 hx

/-- Settles O6. -/
theorem stepPerformsThePresentedOperation : Obligations.StepPerformsThePresentedOperation := by
  unfold Obligations.StepPerformsThePresentedOperation
  refine ⟨fun s x rest i hp hdec hfree => step_operation hp hdec (held_eq_false.mpr hfree), fun s w i hdec hfree => ?_⟩
  have hheld : held i (s.withFetchWord 8 w) = false := held_eq_false.mpr hfree
  rw [step_operation (rest := s.env.pending) rfl hdec hheld]
  rfl

/-- Settles O7: the held `TICK` is put back, and the loop's turn leaves what is presented. -/
theorem heldTickWaitsAndTheLoopTurns : Obligations.HeldTickWaitsAndTheLoopTurns := by
  unfold Obligations.HeldTickWaitsAndTheLoopTurns
  constructor
  · intro s hflag
    have hexec : exec .tick s = .next ((holdTick s).withRes .none) := exec_next.mpr (.inr ⟨hflag, rfl⟩)
    exact ⟨_, hexec, rfl, fun S a => memRead_congr rfl rfl rfl S a, rfl⟩
  · intro s x rest hp hdec hflag
    have hstep := step_held hp hdec (held_eq_true.mpr ⟨rfl, hflag⟩)
    exact ⟨hstep, fun t ht => exec_pending (i := .poll) rfl (hstep ▸ ht)⟩

/-- Settles O8: each turn serves one of at most three flags. -/
theorem holdLiftsWithinThreeTurns : Obligations.HoldLiftsWithinThreeTurns := by
  unfold Obligations.HoldLiftsWithinThreeTurns
  intro s x rest hs hp hdec _
  obtain ⟨t, hrun, hpending, hdone⟩ := run_held hdec s.flagCount hs.cfgValid hp rfl
  have hstep := step_operation (hpending.trans hp) hdec (held_eq_false.mpr fun _ => hdone)
  exact ⟨s.flagCount, t, s.flagCount_le, hrun, hpending, hdone, hstep⟩

/-- Settles O9. -/
theorem idlePortLeavesTheLoopTurning : Obligations.IdlePortLeavesTheLoopTurning := fun _ => step_idle

/-- Settles O11: a reset reads the record and the environment only. -/
theorem resetForgetsTheStateBefore : Obligations.ResetForgetsTheStateBefore := by
  unfold Obligations.ResetForgetsTheStateBefore
  refine ⟨fun s c rest hp hc => ?_, fun s u c rest hp henv => ?_, fun s c rest hp hc => ?_, fun c => ?_⟩
  · simp [step_reset hp, launch, hc]
  · rw [step_reset hp, step_reset (henv ▸ hp), henv]
  · simp [step_reset hp, launch, hc]
  · have hpos {I : Word} : I ≠ 0 ↔ 1 ≤ I.toNat := ⟨one_le_toNat, by rintro h rfl; simp at h⟩
    rw [valid_iff, hpos, hpos, hpos]

/-- Settles O31. -/
theorem pollServesByPriority : Obligations.PollServesByPriority := by
  unfold Obligations.PollServesByPriority
  intro s
  refine ⟨fun hwait => exec_poll_of_nextService (nextService_of_wait hwait),
    fun hwait hreq => exec_poll_of_nextService (nextService_of_req hwait hreq),
    fun hwait hreq htel => exec_poll_of_nextService (nextService_of_tel hwait hreq htel), fun hno => ?_, fun hv => ?_⟩
  · obtain ⟨hres, hblock, hbytes⟩ := s.withRes_writes_only_res .none
    exact ⟨_, exec_poll_of_none (nextService_of_noFlag hno), hblock, hbytes, hres⟩
  · obtain ⟨t, ht, -⟩ := poll_completes hv
    exact ⟨t, ht, fun u hu => exec_serviceOf_flag ((exec_poll_of_nextService hu).symm.trans ht)⟩

/-- Settles O32: at most three flags are pending, and each turn serves one. -/
theorem settleLeavesNoFlagPending : Obligations.SettleLeavesNoFlagPending :=
  fun s hs => settleFor_completes 3 hs.cfgValid s.flagCount_le

/-- Settles O34. -/
theorem servicesAreRefusedWithTheirFlagClear : Obligations.ServicesAreRefusedWithTheirFlagClear :=
  fun s => ⟨serviceTel_of_clear (s := s.withRes .none), serviceReq_of_clear (s := s.withRes .none),
    serviceWait_of_clear (s := s.withRes .none)⟩

end Sys2Proof.Machine
end

section
/-! The acknowledgement codec and the event accumulator (41_frame_codec.md R121, R122; 42_event_accumulator.md R132 to R134): O21,
O22, O23, O24, O25. -/

namespace Sys2Proof.Machine

/-! ## `DECA` and `MATCH` -/

theorem exec_deca (b0 b1 b2 : Byte) (s : State) :
    exec (.deca b0 b1 b2) s = .next (s.withRes (.ack (decodeAck b0 b1 b2))) := exec_next.mpr rfl

theorem exec_matchInbox (s : State) : exec .matchInbox s = .next (s.withRes (.matched (inboxMatches s))) := exec_next.mpr rfl

theorem eq_loByte_iff {b : Byte} {v : Half} : b = loByte v ↔ b.toNat = v.toNat % 256 := by
  rw [← BitVec.toNat_inj, loByte_toNat]

theorem eq_hiByte_iff {b : Byte} {v : Half} : b = hiByte v ↔ b.toNat = v.toNat / 256 := by
  rw [← BitVec.toNat_inj, hiByte_toNat]

/-- The matching rule in numbers (R122, R82). -/
theorem inboxMatches_eq_true {s : State} : inboxMatches s = true ↔ s.inboxValid = true ∧
    (memRead s .inbox 0).toNat = s.cfg.senderId.toNat % 256 ∧ (memRead s .inbox 1).toNat = s.cfg.senderId.toNat / 256 := by
  simp only [inboxMatches, inboxAck, decodeAck, Bool.and_eq_true, beq_iff_eq, and_assoc, eq_loByte_iff, eq_hiByte_iff]

/-! ## `REC` and `DRAIN` -/

theorem exec_drain (s : State) : exec .drain s = .next ((clearEvents s).withRes (.events s.readEv)) := exec_next.mpr rfl

theorem readEv_clearEvents (s : State) : (clearEvents s).readEv = 0#8 := hardwireEv_zero

theorem recordEvent_readEv_eq_ev (src : Source) (s : State) : (recordEvent src s).readEv = (recordEvent src s).ev :=
  hardwireEv_idem _

/-- Two recordings leave both bits. -/
theorem exec_recEvent_recEvent (a b : Source) (s : State) :
    andThen (exec (.recEvent a) s) (exec (.recEvent b)) =
      .next ((s.writeEv (s.readEv ||| sourceMask a ||| sourceMask b)).withRes .none) := by
  rw [exec_recEvent, andThen_of_next, exec_recEvent, recordEvent, State.readEv_withRes, readEv_recordEvent]
  rfl

/-- A recording where no event is pending leaves the bit of its source only. -/
theorem recordEvent_ev_of_none {s : State} (hs : s.readEv = 0) (src : Source) :
    (recordEvent src s).ev.toNat = 2 ^ src.code.toNat := by
  rw [recordEvent_ev, hs]
  cases src <;> decide

theorem recordAll_cons (src : Source) (srcs : List Source) (s : State) :
    recordAll (src :: srcs) s = recordAll srcs ((recordEvent src s).withRes .none) := by
  rw [recordAll, List.foldl_cons, andThen_of_next, exec_recEvent, recordAll]

/-- Recording a list adds exactly the bits of its sources. -/
theorem recordAll_completes (srcs : List Source) (s : State) : ∃ u, recordAll srcs s = .next u ∧
    ∀ k, u.readEv.getLsbD k = (s.readEv.getLsbD k || srcs.any fun src => decide (src.code.toNat = k)) := by
  induction srcs generalizing s with
  | nil => exact ⟨s, rfl, by simp⟩
  | cons src srcs ih =>
    obtain ⟨u, hu, hbits⟩ := ih ((recordEvent src s).withRes .none)
    refine ⟨u, (recordAll_cons src srcs s).trans hu, fun k => ?_⟩
    rw [hbits, State.readEv_withRes, recordEvent_readEv_getLsbD, List.any_cons, ← Bool.or_assoc, Bool.or_comm (decide _)]
    simp only [eq_comm (a := k)]

/-! ## O21, O22, O23, O24, O25 -/

/-- Settles O21. -/
theorem decaAnswersItsThreeBytes : Obligations.DecaAnswersItsThreeBytes := by
  unfold Obligations.DecaAnswersItsThreeBytes
  refine ⟨fun opd msg => ⟨_, _, _, decode_deca opd msg⟩, fun b0 b1 b2 s => ?_⟩
  exact ⟨_, exec_deca b0 b1 b2 s, s.withRes_writes_only_res _⟩

/-- Settles O22. -/
theorem matchAcceptsTheSwappedIdentifierOnly : Obligations.MatchAcceptsTheSwappedIdentifierOnly := by
  unfold Obligations.MatchAcceptsTheSwappedIdentifierOnly
  intro s
  obtain ⟨hres, hblock, hbytes⟩ := s.withRes_writes_only_res (.matched (inboxMatches s))
  exact ⟨_, _, exec_matchInbox s, hres, hblock, hbytes, inboxMatches_eq_true⟩

/-- Settles O23: a recording is an inclusive or with the mask of its source. -/
theorem recSetsExactlyItsBit : Obligations.RecSetsExactlyItsBit := by
  unfold Obligations.RecSetsExactlyItsBit
  refine ⟨fun src opd msg => ?_, fun s opd msg => ?_, fun src s => ?_, fun src s => ?_, fun a b s => ?_⟩
  · have hdec := decode_encodeWord (i := .recEvent src) rfl opd msg
    cases src <;> exact hdec
  · exact step_reserved (x := ⟨0x67, opd, msg⟩) rfl (by simp [reservedByR92])
  · obtain ⟨hframe, hbytes, hres⟩ := recordEvent_withRes_frame src s
    refine ⟨_, exec_recEvent src s, fun k => ?_, recordEvent_readEv_eq_ev src s, hframe, hbytes, hres⟩
    have hbit := recordEvent_readEv_getLsbD src s k
    rw [recordEvent_readEv_eq_ev] at hbit
    cases src <;> exact hbit
  · rw [exec_recEvent_recEvent, BitVec.or_assoc, BitVec.or_self, exec_recEvent, recordEvent]
  · rw [exec_recEvent_recEvent, exec_recEvent_recEvent, BitVec.or_assoc, BitVec.or_comm (sourceMask a), ← BitVec.or_assoc]

/-- Settles O24. -/
theorem drainTakesAndClears : Obligations.DrainTakesAndClears := by
  unfold Obligations.DrainTakesAndClears
  refine ⟨decode_encodeWord (i := .drain) rfl, fun s => ?_⟩
  refine ⟨_, exec_drain s, rfl, rfl, rfl, fun S a => memRead_congr rfl rfl rfl S a, ⟨_, exec_drain _, ?_, rfl⟩, fun src => ?_⟩
  · rw [State.readEv_withRes, readEv_clearEvents]
    rfl
  · exact ⟨_, exec_recEvent src _, recordEvent_ev_of_none (readEv_clearEvents s) src⟩

/-- Settles O25: the first `DRAIN` leaves no event, and the recordings add the bits of the list. -/
theorem drainAnswersTheUnionOfTheRecordedEvents : Obligations.DrainAnswersTheUnionOfTheRecordedEvents := by
  unfold Obligations.DrainAnswersTheUnionOfTheRecordedEvents
  intro srcs s t ht
  obtain rfl := exec_next.mp ht
  obtain ⟨u, hu, hbits⟩ := recordAll_completes srcs ((clearEvents s).withRes (.events s.readEv))
  refine ⟨u, _, _, u.readEv, hu, exec_drain u, rfl, fun k => ?_, exec_drain _, ?_⟩
  · rw [hbits, State.readEv_withRes, readEv_clearEvents, BitVec.getLsbD_zero, Bool.false_or]
  · rw [State.readEv_withRes, readEv_clearEvents]
    rfl

end Sys2Proof.Machine
end

section
/-! The scheduler (43_scheduler.md R141 to R147): O26, O27, O28, O29, O30. -/

namespace Sys2Proof.Machine

/-! ## `ARM`, `DISARM`, `REARM` -/

theorem exec_arm {I : Word} (hI : I ≠ 0) (u : TimerId) (s : State) :
    exec (.arm u I) s = .next ((s.setTimer u ((s.timer u).load I)).withRes .none) := exec_next.mpr ⟨hI, rfl⟩

theorem exec_rearm {I : Word} (hI : I ≠ 0) (u : TimerId) (s : State) :
    exec (.rearm u I) s = .next ((s.setTimer u ((s.timer u).load I)).withRes .none) := exec_next.mpr ⟨hI, rfl⟩

theorem exec_disarm (u : TimerId) (s : State) :
    exec (.disarm u) s = .next ((s.setTimer u (s.timer u).stop).withRes .none) := exec_next.mpr rfl

theorem exec_arm_zero (u : TimerId) (s : State) : exec (.arm u 0) s = .refused (.intervalZero u) := by
  simp [exec, execArm, armTimer]

theorem exec_rearm_zero (u : TimerId) (s : State) : exec (.rearm u 0) s = .refused (.intervalZero u) := by
  simp [exec, execRearm, rearmTimer]

/-- `DISARM` then `ARM` is `REARM` (R143). -/
theorem exec_disarm_arm {I : Word} (hI : I ≠ 0) (u : TimerId) (s : State) :
    andThen (exec (.disarm u) s) (exec (.arm u I)) = exec (.rearm u I) s := by
  rw [exec_disarm, andThen_of_next, exec_arm hI, exec_rearm hI, State.timer_withRes, State.timer_setTimer_same,
    Timer.stop_load, setTimer_withRes, setTimer_setTimer, State.withRes_withRes]

/-- A write of one timer, and nothing else but the result bus. -/
theorem setTimer_writes_only_timer (s : State) (u : TimerId) (v : Timer) :
    let t := (s.setTimer u v).withRes .none
    t.timer u = v ∧ (∀ w, w ≠ u → t.timer w = s.timer w) ∧
      { t with tel := s.tel, ackreq := s.ackreq, ackwait := s.ackwait, env := s.env } = s ∧ SameBytes s t ∧
      OnlyRes s t .none := by
  refine ⟨by simp, fun w hw => (State.timer_withRes _ _ _).trans (s.timer_setTimer_of_ne v hw), ?_, ?_, ?_⟩
  · cases u <;> rfl
  · exact fun S a => memRead_congr (by simp) (by simp) (by simp) S a
  · simp [OnlyRes]

/-! ## One time unit (R144) -/

theorem Timer.tick_of_idle {T : Timer} (m : Mode) (h : T.armed = false) : T.tick m = T := by
  simp [Timer.tick, h]

theorem Timer.tick_of_expired {T : Timer} (m : Mode) (h : T.armed = true) (hc : T.count.toNat = 1) :
    T.tick m = T.expire m := by
  have hzero : T.count - 1 = 0 := by bv_omega
  rw [Timer.tick, if_pos h, if_pos hzero]

theorem Timer.tick_of_counting {T : Timer} (m : Mode) (h : T.armed = true) (hc : 2 ≤ T.count.toNat) :
    T.tick m = { T with count := T.count - 1 } := by
  have hpos : T.count - 1 ≠ 0 := by bv_omega
  rw [Timer.tick, if_pos h, if_neg hpos]

theorem sub_one_toNat {c : Word} (hc : 1 ≤ c.toNat) : (c - 1).toNat = c.toNat - 1 := by bv_omega

theorem exec_tick {s : State} (h : s.anyFlag = false) : exec .tick s = .next ((tickTimers s).withRes .none) :=
  exec_next.mpr (.inl ⟨h, rfl⟩)

theorem timer_tickTimers (s : State) (u : TimerId) : (tickTimers s).timer u = (s.timer u).tick (timerMode u) := by
  cases u <;> rfl

/-! ## Many time units (R147) -/

/-- A periodic timer `n` time units after it was loaded with `I`. -/
structure PeriodicAfter (T : Timer) (I : Word) (n : Nat) (T' : Timer) : Prop where
  armed    : T'.armed = true
  interval : T'.interval = I
  count    : T'.count.toNat = I.toNat - n % I.toNat
  flag     : T'.flag = (T.flag || decide (I.toNat ≤ n))

/-- The remainder counts up to `I - 1` and then starts again at 0. -/
theorem PeriodicAfter.tick {T T' : Timer} {I : Word} {n : Nat} (hI : I ≠ 0) (h : PeriodicAfter T I n T') :
    PeriodicAfter T I (n + 1) (T'.tick .periodic) := by
  obtain ⟨harmed, hinterval, hcount, hflag⟩ := h
  have hlt : n % I.toNat < I.toNat := Nat.mod_lt n (one_le_toNat hI)
  have hsucc : (n + 1) % I.toNat = (n % I.toNat + 1) % I.toNat := (Nat.mod_add_mod n I.toNat 1).symm
  by_cases hlast : n % I.toNat + 1 = I.toNat
  · have hle : n % I.toNat ≤ n := Nat.mod_le n I.toNat
    rw [hlast, Nat.mod_self] at hsucc
    rw [Timer.tick_of_expired .periodic harmed (by omega)]
    refine ⟨harmed, hinterval, ?_, ?_⟩
    · rw [hsucc, Nat.sub_zero, ← hinterval]
      rfl
    · have hdone : I.toNat ≤ n + 1 := by omega
      simp [Timer.expire, hdone]
  · have hne : n + 1 ≠ I.toNat := by
      intro heq
      rw [Nat.mod_eq_of_lt (show n < I.toNat by omega)] at hlast
      exact hlast heq
    rw [Nat.mod_eq_of_lt (show n % I.toNat + 1 < I.toNat by omega)] at hsucc
    rw [Timer.tick_of_counting .periodic harmed (by omega)]
    refine ⟨harmed, hinterval, ?_, ?_⟩
    · rw [sub_one_toNat (by omega), hcount, hsucc]
      omega
    · have hiff : I.toNat ≤ n ↔ I.toNat ≤ n + 1 := by omega
      simp only [hflag, hiff]

theorem periodicAfter_iterate {I : Word} (hI : I ≠ 0) (T : Timer) (n : Nat) :
    PeriodicAfter T I n ((Timer.tick .periodic)^[n] (T.load I)) := by
  induction n with
  | zero =>
    have hpos : ¬ I.toNat ≤ 0 := Nat.not_le.mpr (one_le_toNat hI)
    exact ⟨rfl, rfl, by simp, by simp [hpos]⟩
  | succ n ih =>
    rw [Function.iterate_succ_apply']
    exact ih.tick hI

/-- The one-shot timer `n` time units after it was loaded with `I`. -/
structure OneShotAfter (T : Timer) (I : Word) (n : Nat) (T' : Timer) : Prop where
  interval : T'.interval = I
  before   : n < I.toNat → T'.armed = true ∧ T'.count.toNat = I.toNat - n ∧ T'.flag = T.flag
  after    : I.toNat ≤ n → T'.armed = false ∧ T'.count = 0 ∧ T'.flag = true

theorem OneShotAfter.tick {T T' : Timer} {I : Word} {n : Nat} (h : OneShotAfter T I n T') :
    OneShotAfter T I (n + 1) (T'.tick .oneShot) := by
  obtain ⟨hinterval, hbefore, hafter⟩ := h
  rcases Nat.lt_trichotomy (n + 1) I.toNat with hlt | heq | hgt
  · obtain ⟨harmed, hcount, hflag⟩ := hbefore (by omega)
    rw [Timer.tick_of_counting .oneShot harmed (by omega)]
    refine ⟨hinterval, fun _ => ⟨harmed, ?_, hflag⟩, fun hle => absurd hle (by omega)⟩
    rw [sub_one_toNat (by omega), hcount]
    omega
  · obtain ⟨harmed, hcount, -⟩ := hbefore (by omega)
    rw [Timer.tick_of_expired .oneShot harmed (by omega)]
    exact ⟨hinterval, fun hlt => absurd hlt (by omega), fun _ => ⟨rfl, rfl, rfl⟩⟩
  · obtain ⟨hidle, hcount, hflag⟩ := hafter (by omega)
    rw [Timer.tick_of_idle .oneShot hidle]
    exact ⟨hinterval, fun hlt => absurd hlt (by omega), fun _ => ⟨hidle, hcount, hflag⟩⟩

theorem oneShotAfter_iterate {I : Word} (hI : I ≠ 0) (T : Timer) (n : Nat) :
    OneShotAfter T I n ((Timer.tick .oneShot)^[n] (T.load I)) := by
  induction n with
  | zero => exact ⟨rfl, fun _ => ⟨rfl, rfl, rfl⟩, fun hle => absurd (one_le_toNat hI) (by omega)⟩
  | succ n ih =>
    rw [Function.iterate_succ_apply']
    exact ih.tick

/-! ## O26, O27, O28, O29, O30 -/

/-- Settles O26. -/
theorem armLoadsTheTimer : Obligations.ArmLoadsTheTimer :=
  ⟨fun u _ s hI => ⟨_, exec_arm hI u s, setTimer_writes_only_timer s u _⟩, exec_arm_zero⟩

/-- Settles O27. -/
theorem disarmStopsTheTimer : Obligations.DisarmStopsTheTimer :=
  fun u s => ⟨_, exec_disarm u s, setTimer_writes_only_timer s u _⟩

/-- Settles O28. -/
theorem rearmRestartsThePhase : Obligations.RearmRestartsThePhase :=
  ⟨fun u _ s hI => ⟨_, exec_rearm hI u s, (exec_disarm_arm hI u s).trans (exec_rearm hI u s),
    setTimer_writes_only_timer s u _⟩, exec_rearm_zero⟩

/-- Settles O29: each timer takes its own step, which its armed bit and its count decide. -/
theorem tickAdvancesEveryArmedTimer : Obligations.TickAdvancesEveryArmedTimer := by
  unfold Obligations.TickAdvancesEveryArmedTimer
  intro s hno
  refine ⟨_, exec_tick hno, rfl, fun S a => memRead_congr rfl rfl rfl S a, rfl, fun u => ?_⟩
  rw [State.timer_withRes, timer_tickTimers]
  refine ⟨Timer.tick_of_idle _, fun harmed hcount => ?_, fun harmed hcount => ?_⟩
  · rw [Timer.tick_of_counting _ harmed hcount]
    exact ⟨sub_one_toNat (by omega), rfl⟩
  · rw [Timer.tick_of_expired _ harmed hcount]
    cases u with
    | tel | ackreq => exact ⟨rfl, rfl, fun _ => ⟨harmed, rfl⟩, fun h => nomatch h⟩
    | ackwait => exact ⟨rfl, rfl, fun h => absurd rfl h, fun _ => ⟨rfl, rfl⟩⟩

/-- Settles O30: the closed form of a timer's registers is kept by one tick. -/
theorem timerExpiresEveryInterval : Obligations.TimerExpiresEveryInterval := by
  unfold Obligations.TimerExpiresEveryInterval
  constructor
  · intro s t hno ht u
    rw [exec_tick hno] at ht
    obtain rfl := Host.Outcome.next.inj ht
    rw [State.timer_withRes, timer_tickTimers]
  · intro u T I n hI
    cases u with
    | tel | ackreq =>
      obtain ⟨harmed, hinterval, hcount, hflag⟩ := periodicAfter_iterate hI T n
      exact ⟨fun _ => ⟨harmed, hinterval, hcount, hflag⟩, fun h => nomatch h⟩
    | ackwait =>
      obtain ⟨hinterval, hbefore, hafter⟩ := oneShotAfter_iterate hI T n
      exact ⟨fun h => absurd rfl h, fun _ => ⟨hinterval, hbefore, hafter⟩⟩

end Sys2Proof.Machine
end

section
/-! What each service and the receive path leave, in full (44_sequencer.md R155 to R158; 45_retry_backoff.md R166 to R169): O33,
O35, O36, O37, O38, O39, O54. -/

namespace Sys2Proof.Machine

/-! ## Setting one bit of `OPTIONS` (R83) -/

theorem optAckrq_getLsbD (k : Nat) : optAckrq.getLsbD k = decide (k = 0) := by
  have hmask : optAckrq = BitVec.twoPow 8 0 := by decide
  simp [hmask, BitVec.getLsbD_twoPow, eq_comm]

theorem optRetry_getLsbD (k : Nat) : optRetry.getLsbD k = decide (k = 2) := by
  have hmask : optRetry = BitVec.twoPow 8 2 := by decide
  simp [hmask, BitVec.getLsbD_twoPow, eq_comm]

/-- `ACKRQ` and `RETRY` lie outside the hardwired bits, so both are stored. -/
theorem hardwireOptions_or_ackrq (v : Byte) : hardwireOptions (hardwireOptions v ||| optAckrq) = hardwireOptions v ||| optAckrq := by
  revert v; decide

theorem hardwireOptions_or_retry (v : Byte) : hardwireOptions (hardwireOptions v ||| optRetry) = hardwireOptions v ||| optRetry := by
  revert v; decide

theorem writeOptions_ackrq_getLsbD (s : State) (k : Nat) :
    (hardwireOptions (s.readOptions ||| optAckrq)).getLsbD k = (s.readOptions.getLsbD k || decide (k = 0)) := by
  rw [State.readOptions, hardwireOptions_or_ackrq, BitVec.getLsbD_or, optAckrq_getLsbD]

theorem writeOptions_retry_getLsbD (s : State) (k : Nat) :
    (hardwireOptions (s.readOptions ||| optRetry)).getLsbD k = (s.readOptions.getLsbD k || decide (k = 2)) := by
  rw [State.readOptions, hardwireOptions_or_retry, BitVec.getLsbD_or, optRetry_getLsbD]

/-! ## The inbox -/

/-- A datagram of three bytes is stored (R158). -/
theorem exec_rxd_three {len : Half} (hlen : len.toNat = 3) (d0 d1 d2 : Byte) (s : State) :
    exec (.rxd len d0 d1 d2) s =
      .next ({ memWriteList s .inbox 0 [d0, d1, d2] with inboxValid := true }.withRes .none) :=
  exec_next.mpr (.inl ⟨hlen, rfl⟩)

theorem exec_rxd_other {len : Half} (hlen : len.toNat ≠ 3) (d0 d1 d2 : Byte) (s : State) :
    exec (.rxd len d0 d1 d2) s = .next (s.withRes .none) :=
  exec_next.mpr (.inr ⟨hlen, rfl⟩)

/-- The cleared inbox reads 0x00 at its three indexes. -/
theorem clearInbox_memRead {s : State} (hwf : s.inbox.wf) :
    (∀ k, k < 3 → memRead (clearInbox s) .inbox k = 0x00) ∧
      ∀ a, 3 ≤ a → memRead (clearInbox s) .inbox a = memRead s .inbox a := by
  obtain ⟨h0, h1, h2, hrest⟩ := writeList_three hwf 0x00 0x00 0x00
  refine ⟨fun k hk => ?_, hrest⟩
  interval_cases k
  · exact h0
  · exact h1
  · exact h2

/-! ## The three outcomes of a wait service (R166 to R168) -/

theorem exec_svcwait_healthy {s : State} (hflag : s.ackwait.flag = true) (hmatch : inboxMatches s = true)
    (hcount : s.retryCount = 0) :
    exec .svcwait s = .next ((clearInbox ((s.withRes .none).clearFlag .ackwait)).emit (.status .acked 0)) :=
  serviceWait_next (s := s.withRes .none).mpr ⟨hflag, .inl ⟨hmatch, matchPath_next.mpr (.inl ⟨hcount, rfl⟩)⟩⟩

theorem exec_svcwait_degraded {s : State} (hflag : s.ackwait.flag = true) (hmatch : inboxMatches s = true)
    (hcount : s.retryCount ≠ 0) (htel : s.cfg.baseTel ≠ 0) (hack : s.cfg.baseAck ≠ 0) :
    exec .svcwait s = .next ((loadBoth s.cfg.baseTel s.cfg.baseAck
      { clearInbox ((s.withRes .none).clearFlag .ackwait) with retryCount := 0 }).emit (.status .acked 0)) :=
  serviceWait_next (s := s.withRes .none).mpr
    ⟨hflag, .inl ⟨hmatch, matchPath_next.mpr (.inr ⟨hcount, htel, hack, rfl⟩)⟩⟩

theorem exec_svcwait_noMatch {s : State} (hflag : s.ackwait.flag = true) (hmatch : inboxMatches s = false)
    (hv : s.cfg.valid = true) :
    exec .svcwait s = .next (backedOff ((s.withRes .none).clearFlag .ackwait)) :=
  serviceWait_next (s := s.withRes .none).mpr
    ⟨hflag, .inr ⟨hmatch, noMatchPath_next.mpr ⟨backoffInterval_ne_zero hv s.retryCount, rfl⟩⟩⟩

/-! ## O33 -/

theorem telemetryFrame_withRes (s : State) (r : Res) : telemetryFrame (s.withRes r) = telemetryFrame s := rfl

theorem frameBytes_length (f : Frame) : (frameBytes f).length = 8 := rfl

/-- The frame's bytes in `TXBUF`, every other byte as before. -/
theorem writeList_frameBytes {m : Memory} (hm : m.wf) (f : Frame) :
    (∀ k, k < 8 → (m.writeList 0 (frameBytes f)).read k = (frameBytes f).getD k 0) ∧
      ∀ a, 8 ≤ a → (m.writeList 0 (frameBytes f)).read a = m.read a := by
  constructor
  · intro k hk
    rw [Memory.read_writeList hm, dif_pos ⟨Nat.zero_le k, by rw [frameBytes_length]; omega⟩, List.getD_eq_getElem _ _ hk]
    rfl
  · intro a ha
    rw [Memory.read_writeList hm, dif_neg (by rw [frameBytes_length]; omega)]

/-- Settles O33: `TelFields` lists the service's writes. -/
theorem svctelBuildsAndSendsOneFrame : Obligations.SvctelBuildsAndSendsOneFrame := by
  unfold Obligations.SvctelBuildsAndSendsOneFrame
  intro s hflag hwf
  have hexec : exec .svctel s = .next (afterSend s.draw.ok (sendFrame ((s.withRes .none).clearFlag .tel))) :=
    serviceTel_next (s := s.withRes .none).mpr ⟨hflag, rfl⟩
  generalize afterSend s.draw.ok (sendFrame ((s.withRes .none).clearFlag .tel)) = t at hexec
  have ht : TelFields (s.withRes .none) t := serviceTel_fields hexec
  obtain ⟨hin, hout⟩ := writeList_frameBytes hwf (telemetryFrame s)
  refine ⟨t, telemetryFrame s, hexec, exec_enct _ _ _ _ _ s, ?frame, ht.tel, ht.ev, ?seq, fun k hk => ?bytes, fun a ha => ?beyond,
    fun a => ?lut, fun a => ?inbox, fun hok => ?sent, fun hok => ?failed, ht.res, ht.pending, fun d ds hd => ?listed, ht.drawsFree⟩
  case frame =>
    refine State.ext_fields ?_
    simp [ht.cfg, ht.retryCount, ht.ackInterval, ht.pktInterval, ht.ackreq, ht.ackwait, ht.inbox, ht.inboxValid, ht.lut]
  case seq => rw [ht.seq, BitVec.toNat_add]; rfl
  case bytes => rw [memRead_txbuf, ht.txbuf]; exact hin k hk
  case beyond => rw [memRead_txbuf, ht.txbuf]; exact hout a ha
  case lut => rw [memRead_lut, ht.lut]; rfl
  case inbox => rw [memRead_inbox, ht.inbox]; rfl
  case sent => exact ⟨by simp [ht.options, hok], by simp [ht.emitted, hok, telemetryFrame_withRes]⟩
  case failed => exact ⟨by simp [ht.options, hok], by simp [ht.emitted, hok, telemetryFrame_withRes]⟩
  case listed => exact ⟨by simp [State.draw, hd], ht.drawsListed d ds hd⟩

/-! ## O35, O36 -/

/-- Settles O35. -/
theorem svcreqMarksTheNextFrameAndArmsTheWait : Obligations.SvcreqMarksTheNextFrameAndArmsTheWait := by
  unfold Obligations.SvcreqMarksTheNextFrameAndArmsTheWait
  intro s hflag hwait
  have hexec := serviceReq_next (s := s.withRes .none).mpr ⟨hflag, hwait, rfl⟩
  refine ⟨_, hexec, rfl, fun S a => memRead_congr rfl rfl rfl S a, rfl, rfl, rfl, ?_, fun k hk => ?_⟩
  · exact (writeOptions_ackrq_getLsbD s 0).trans (by simp)
  · exact (writeOptions_ackrq_getLsbD s k).trans (by simp [hk])

/-- Settles O36. -/
theorem rxdStoresThreeByteDatagramsOnly : Obligations.RxdStoresThreeByteDatagramsOnly := by
  unfold Obligations.RxdStoresThreeByteDatagramsOnly
  intro len d0 d1 d2 s hwf
  by_cases hlen : len.toNat = 3
  · obtain ⟨h0, h1, h2, hrest⟩ := writeList_three hwf d0 d1 d2
    exact ⟨_, exec_rxd_three hlen d0 d1 d2 s, rfl, rfl, fun _ => rfl, fun _ => rfl, hrest, fun _ => ⟨rfl, h0, h1, h2⟩,
      fun hne => absurd hlen hne⟩
  · obtain ⟨hres, hblock, hbytes⟩ := s.withRes_writes_only_res .none
    exact ⟨_, exec_rxd_other hlen d0 d1 d2 s, hres, rfl, hbytes .lut, hbytes .txbuf, fun a _ => hbytes .inbox a,
      fun heq => absurd heq hlen, fun _ => ⟨hblock, hbytes⟩⟩

/-! ## O37, O38, O39, O54 -/

/-- Settles O37. -/
theorem svcwaitMatchWhileHealthyOnlyClearsTheInbox : Obligations.SvcwaitMatchWhileHealthyOnlyClearsTheInbox := by
  unfold Obligations.SvcwaitMatchWhileHealthyOnlyClearsTheInbox
  intro s hflag hmatch hwf hcount
  obtain ⟨hzero, hrest⟩ := clearInbox_memRead (s := s) hwf
  refine ⟨_, exec_svcwait_healthy hflag (inboxMatches_of_exec hmatch) hcount, ?frame, rfl, rfl, ?cleared, ?beyond, ?lut, ?txbuf,
    rfl⟩
  case cleared => simpa [State.clearFlag] using hzero
  case beyond => simpa [State.clearFlag] using hrest
  case frame => simp [State.clearFlag]
  case lut | txbuf => simp [SameSpace, State.clearFlag]

/-- Settles O38. -/
theorem svcwaitMatchWhileDegradedReturnsToHealthy : Obligations.SvcwaitMatchWhileDegradedReturnsToHealthy := by
  unfold Obligations.SvcwaitMatchWhileDegradedReturnsToHealthy
  intro s hflag hmatch hwf hcount htel hack
  obtain ⟨hzero, hrest⟩ := clearInbox_memRead (s := s) hwf
  refine ⟨_, exec_svcwait_degraded hflag (inboxMatches_of_exec hmatch) hcount htel hack, ?frame, rfl, rfl, rfl, rfl, rfl, rfl, rfl,
    ?cleared, ?beyond, ?lut, ?txbuf, rfl⟩
  case cleared => simpa [State.clearFlag] using hzero
  case beyond => simpa [State.clearFlag] using hrest
  case frame => simp [State.clearFlag]
  case lut | txbuf => simp [SameSpace, State.clearFlag]

/-- Settles O39: under R10 the interval of the new count fits 32 bits. -/
theorem svcwaitNoMatchBacksOff : Obligations.SvcwaitNoMatchBacksOff := by
  unfold Obligations.SvcwaitNoMatchBacksOff
  intro s hflag hmatch hv
  have hcount := nextRetryCount_toNat s.retryCount s.cfg.retryMax
  refine ⟨_, backoffInterval s.cfg.baseAck (nextRetryCount s.retryCount s.cfg.retryMax),
    exec_svcwait_noMatch hflag (inboxMatches_of_exec hmatch) hv, ?frame, fun S a => memRead_congr rfl rfl rfl S a, hcount, ?retry,
    fun k hk => ?others, ?interval, rfl, rfl, rfl, rfl, rfl, rfl⟩
  case frame => simp [backedOff, State.clearFlag]
  case retry => exact (writeOptions_retry_getLsbD s 2).trans (by simp)
  case others => exact (writeOptions_retry_getLsbD s k).trans (by simp [hk])
  case interval => exact backoffInterval_toNat hv _ (by rw [hcount]; omega)

/-- Settles O54: the inbox decides the path, and in a match the count decides whether the timers are rearmed. -/
theorem svcwaitCompletes : Obligations.SvcwaitCompletes := by
  unfold Obligations.SvcwaitCompletes
  intro s hflag hv
  simp only [← inboxMatches_eq_true, Bool.not_eq_true]
  cases hmatch : inboxMatches s with
  | true =>
    by_cases hcount : s.retryCount = 0
    · exact ⟨_, exec_svcwait_healthy hflag hmatch hcount, by simp [SameSpace, State.clearFlag, hcount]⟩
    · obtain ⟨htel, hack, -, -⟩ := valid_iff.mp hv
      exact ⟨_, exec_svcwait_degraded hflag hmatch hcount htel hack, by simp [SameSpace, State.clearFlag]⟩
  | false =>
    have hretry := (writeOptions_retry_getLsbD s 2).trans (Bool.or_true _)
    have hcount := nextRetryCount_toNat s.retryCount s.cfg.retryMax
    refine ⟨_, exec_svcwait_noMatch hflag hmatch hv, ?_⟩
    simpa [SameSpace, backedOff, State.clearFlag, State.readOptions, hcount] using hretry

end Sys2Proof.Machine
end

section
/-! Who writes what: the frame of each service and of every other operation (10_state.md R21 to R35), and from these O40, O41, O42,
O43, O44, O53. -/

namespace Sys2Proof.Machine

/-! ## The frame of a service -/

/-- The service of timer `u` loads timer `w` (R157, R167, R168). -/
def ServiceLoads (u w : TimerId) : Prop := (w = .ackwait ∧ u = .ackreq) ∨ (w ≠ .ackwait ∧ u = .ackwait)

/-- What the service of timer `u` leaves alone. -/
structure ServiceFrame (u : TimerId) (s t : State) : Prop where
  cfg        : t.cfg = s.cfg
  lut        : t.lut = s.lut
  flag       : t.flag u = false
  otherFlags : ∀ w, w ≠ u → t.flag w = s.flag w
  telOnly    : u ≠ .tel → t.seq = s.seq ∧ t.txbuf = s.txbuf ∧ t.ev = s.ev
  silent     : u ≠ .tel → ∃ new, t.env.emitted = s.env.emitted ++ new ∧ ∀ f : Frame, .tx f ∉ new
  waitOnly   : u ≠ .ackwait → t.retryCount = s.retryCount ∧ t.ackInterval = s.ackInterval ∧ t.pktInterval = s.pktInterval ∧
    t.inbox = s.inbox ∧ t.inboxValid = s.inboxValid
  inboxValid : s.inboxValid = false → t.inboxValid = false
  notLoaded  : ∀ w, ¬ ServiceLoads u w → (t.timer w).armed = (s.timer w).armed ∧ (t.timer w).interval = (s.timer w).interval ∧
    (t.timer w).count = (s.timer w).count
  armed      : ∀ w, (s.timer w).armed = true → (t.timer w).armed = true

theorem serviceTel_frame {s t : State} (h : serviceTel s = .next t) : ServiceFrame .tel s t := by
  have ht := serviceTel_fields h
  constructor
  case cfg => exact ht.cfg
  case lut => exact ht.lut
  case flag => simp [State.flag, ht.tel]
  case otherFlags => intro w hw; cases w <;> simp_all [State.flag, ht.ackreq, ht.ackwait]
  case telOnly => exact fun hne => absurd rfl hne
  case silent => exact fun hne => absurd rfl hne
  case waitOnly => exact fun _ => ⟨ht.retryCount, ht.ackInterval, ht.pktInterval, ht.inbox, ht.inboxValid⟩
  case inboxValid => exact ht.inboxValid.trans
  case notLoaded => intro w _; cases w <;> simp [ht.tel, ht.ackreq, ht.ackwait]
  case armed => intro w hw; cases w <;> simpa [ht.tel, ht.ackreq, ht.ackwait] using hw

theorem serviceReq_frame {s t : State} (h : serviceReq s = .next t) : ServiceFrame .ackreq s t := by
  obtain ⟨-, -, rfl⟩ := serviceReq_next.mp h
  constructor
  case cfg | lut => rfl
  case flag => rfl
  case otherFlags =>
    intro w hw
    cases w with
    | tel | ackwait => rfl
    | ackreq => exact absurd rfl hw
  case telOnly => exact fun _ => ⟨rfl, rfl, rfl⟩
  case silent => exact fun _ => ⟨[], by simp [State.clearFlag], by simp⟩
  case waitOnly => exact fun _ => ⟨rfl, rfl, rfl, rfl, rfl⟩
  case inboxValid => exact id
  case notLoaded =>
    intro w hw
    cases w with
    | tel | ackreq => exact ⟨rfl, rfl, rfl⟩
    | ackwait => exact absurd (.inl ⟨rfl, rfl⟩) hw
  case armed =>
    intro w hw
    cases w with
    | tel | ackreq => exact hw
    | ackwait => rfl

/-- What every outcome of a wait service has in common (R166 to R168). -/
structure WaitFields (s t : State) : Prop where
  cfg        : t.cfg = s.cfg
  seq        : t.seq = s.seq
  ev         : t.ev = s.ev
  lut        : t.lut = s.lut
  txbuf      : t.txbuf = s.txbuf
  ackwait    : t.ackwait = { s.ackwait with flag := false }
  periodic   : (t.tel = s.tel ∧ t.ackreq = s.ackreq) ∨ ∃ I J, t.tel = s.tel.load I ∧ t.ackreq = s.ackreq.load J
  inboxValid : t.inboxValid = false ∨ t.inboxValid = s.inboxValid
  notice     : ∃ code arg, t.env.emitted = s.env.emitted ++ [.status code arg]

theorem serviceWait_fields {s t : State} (h : serviceWait s = .next t) : WaitFields s t := by
  obtain ⟨-, ⟨-, -, rfl⟩ | ⟨-, -, -, -, rfl⟩ | ⟨-, rfl⟩⟩ := serviceWait_cases h
  · constructor
    case periodic => exact .inl ⟨rfl, rfl⟩
    case notice => exact ⟨.acked, 0, rfl⟩
    all_goals simp [State.clearFlag]
  · constructor
    case periodic => exact .inr ⟨_, _, rfl, rfl⟩
    case notice => exact ⟨.acked, 0, rfl⟩
    all_goals simp [State.clearFlag]
  · constructor
    case periodic => exact .inr ⟨_, _, rfl, rfl⟩
    case notice => exact ⟨.retrying, _, rfl⟩
    all_goals simp [State.clearFlag, backedOff]

theorem serviceWait_frame {s t : State} (h : serviceWait s = .next t) : ServiceFrame .ackwait s t := by
  have ht := serviceWait_fields h
  have hflags : t.tel.flag = s.tel.flag ∧ t.ackreq.flag = s.ackreq.flag := by
    obtain ⟨htel, hreq⟩ | ⟨I, J, htel, hreq⟩ := ht.periodic <;> simp [htel, hreq]
  constructor
  case cfg => exact ht.cfg
  case lut => exact ht.lut
  case flag => simp [State.flag, ht.ackwait]
  case otherFlags =>
    intro w hw
    cases w with
    | tel => exact hflags.1
    | ackreq => exact hflags.2
    | ackwait => exact absurd rfl hw
  case telOnly => exact fun _ => ⟨ht.seq, ht.txbuf, ht.ev⟩
  case silent =>
    obtain ⟨code, arg, hnew⟩ := ht.notice
    exact fun _ => ⟨_, hnew, by simp⟩
  case waitOnly => exact fun hne => absurd rfl hne
  case inboxValid => exact fun hs => ht.inboxValid.elim id fun heq => heq.trans hs
  case notLoaded =>
    intro w hw
    cases w with
    | tel | ackreq => exact absurd (.inr ⟨by decide, rfl⟩) hw
    | ackwait => simp [ht.ackwait]
  case armed =>
    intro w hw
    cases w with
    | tel | ackreq => obtain ⟨htel, hreq⟩ | ⟨I, J, htel, hreq⟩ := ht.periodic <;> simp_all
    | ackwait => simpa [ht.ackwait] using hw

/-- The result bus takes no part in a frame. -/
theorem ServiceFrame.of_withRes {u : TimerId} {s t : State} {r : Res} (h : ServiceFrame u (s.withRes r) t) :
    ServiceFrame u s t where
  cfg := h.cfg
  lut := h.lut
  flag := h.flag
  otherFlags w hw := by simpa [State.flag] using h.otherFlags w hw
  telOnly := h.telOnly
  silent := h.silent
  waitOnly := h.waitOnly
  inboxValid := h.inboxValid
  notLoaded w hw := by simpa using h.notLoaded w hw
  armed w hw := h.armed w (by simpa using hw)

theorem exec_serviceOf_frame {u : TimerId} {s t : State} (h : exec (serviceOf u) s = .next t) : ServiceFrame u s t := by
  cases u with
  | tel => exact (serviceTel_frame (exec_next.mp h)).of_withRes
  | ackreq => exact (serviceReq_frame (exec_next.mp h)).of_withRes
  | ackwait => exact (serviceWait_frame (exec_next.mp h)).of_withRes

/-! ## The frame of every other operation -/

/-- What operation `i` leaves in the registers of timer `u`, where it is no service. -/
def TimerEffect (i : Instr) (s : State) (u : TimerId) (v : Timer) : Prop :=
  v = s.timer u ∨ (∃ I, I ≠ 0 ∧ (i = .arm u I ∨ i = .rearm u I) ∧ v = (s.timer u).load I) ∨
    (i = .disarm u ∧ v = (s.timer u).stop) ∨ (i = .tick ∧ s.anyFlag = false ∧ v = (s.timer u).tick (timerMode u))

/-- What an operation that is no service leaves alone, and which one writes the rest. -/
structure BenchFrame (i : Instr) (s t : State) : Prop where
  registers : { t with
    ev := s.ev, tel := s.tel, ackreq := s.ackreq, ackwait := s.ackwait, inbox := s.inbox, inboxValid := s.inboxValid,
    lut := s.lut, env := s.env } = s
  emitted   : t.env.emitted = s.env.emitted
  ev        : t.ev = s.ev ∨ (∃ src, i = .recEvent src) ∨ i = .drain
  inbox     : (t.inbox = s.inbox ∧ t.inboxValid = s.inboxValid) ∨ ∃ len d0 d1 d2, i = .rxd len d0 d1 d2 ∧ len.toNat = 3
  lut       : t.lut = s.lut ∨ i = .lutgen
  timer     : ∀ u, TimerEffect i s u (t.timer u)

section
variable {i : Instr} {s t : State} (h : BenchFrame i s t)
include h

theorem BenchFrame.cfg : t.cfg = s.cfg := (congrArg State.cfg h.registers :)
theorem BenchFrame.seq : t.seq = s.seq := (congrArg State.seq h.registers :)
theorem BenchFrame.options : t.options = s.options := (congrArg State.options h.registers :)
theorem BenchFrame.retryCount : t.retryCount = s.retryCount := (congrArg State.retryCount h.registers :)
theorem BenchFrame.ackInterval : t.ackInterval = s.ackInterval := (congrArg State.ackInterval h.registers :)
theorem BenchFrame.pktInterval : t.pktInterval = s.pktInterval := (congrArg State.pktInterval h.registers :)
theorem BenchFrame.txbuf : t.txbuf = s.txbuf := (congrArg State.txbuf h.registers :)

end

theorem benchFrame_setTimer {i : Instr} {s : State} {u : TimerId} {v : Timer} (h : TimerEffect i s u v) :
    BenchFrame i s ((s.setTimer u v).withRes .none) where
  registers := by cases u <;> rfl
  emitted := by simp
  ev := .inl (by simp)
  inbox := .inl (by simp)
  lut := .inl (by simp)
  timer w := by
    rw [State.timer_withRes]
    by_cases heq : w = u
    · subst heq
      rwa [State.timer_setTimer_same]
    · exact .inl (s.timer_setTimer_of_ne v heq)

theorem benchFrame_withRes (i : Instr) (s : State) (r : Res) : BenchFrame i s (s.withRes r) :=
  ⟨rfl, rfl, .inl rfl, .inl ⟨rfl, rfl⟩, .inl rfl, fun u => .inl (s.timer_withRes r u)⟩

/-- Every operation runs a service or keeps to the frame of the others. -/
theorem exec_service_or_bench {i : Instr} {s t : State} (h : exec i s = .next t) :
    (∃ u, Serves i s u ∧ exec (serviceOf u) s = .next t) ∨ BenchFrame i s t := by
  have heff := exec_next.mp h
  cases i with
  | svctel => exact .inl ⟨.tel, .inl rfl, h⟩
  | svcreq => exact .inl ⟨.ackreq, .inl rfl, h⟩
  | svcwait => exact .inl ⟨.ackwait, .inl rfl, h⟩
  | poll =>
    cases hnext : s.nextService with
    | some u => exact .inl ⟨u, .inr ⟨rfl, hnext⟩, (exec_poll_of_nextService hnext).symm.trans h⟩
    | none =>
      obtain rfl := Host.Outcome.next.inj ((exec_poll_of_none hnext).symm.trans h)
      exact .inr (benchFrame_withRes .poll s .none)
  | arm u I =>
    obtain ⟨hI, rfl⟩ := heff
    exact .inr (benchFrame_setTimer (.inr (.inl ⟨I, hI, .inl rfl, rfl⟩)))
  | rearm u I =>
    obtain ⟨hI, rfl⟩ := heff
    exact .inr (benchFrame_setTimer (.inr (.inl ⟨I, hI, .inr rfl, rfl⟩)))
  | disarm u =>
    obtain rfl := heff
    exact .inr (benchFrame_setTimer (.inr (.inr (.inl ⟨rfl, rfl⟩))))
  | tick =>
    obtain ⟨hno, rfl⟩ | ⟨-, rfl⟩ := heff
    · exact .inr ⟨rfl, rfl, .inl rfl, .inl ⟨rfl, rfl⟩, .inl rfl,
        fun u => .inr (.inr (.inr ⟨rfl, hno, (State.timer_withRes _ _ u).trans (timer_tickTimers s u)⟩))⟩
    · exact .inr ⟨rfl, rfl, .inl rfl, .inl ⟨rfl, rfl⟩, .inl rfl, fun u => .inl (by cases u <;> rfl)⟩
  | rxd len d0 d1 d2 =>
    obtain ⟨hlen, rfl⟩ | ⟨-, rfl⟩ := heff
    · exact .inr ⟨rfl, rfl, .inl rfl, .inr ⟨len, d0, d1, d2, rfl, hlen⟩, .inl rfl, fun u => .inl (by cases u <;> rfl)⟩
    · exact .inr (benchFrame_withRes _ s .none)
  | lutgen =>
    obtain rfl := heff
    exact .inr ⟨by simp, by simp, .inl (by simp), .inl (by simp), .inr rfl, fun u => .inl (by cases u <;> simp)⟩
  | recEvent src =>
    obtain rfl := heff
    exact .inr ⟨rfl, rfl, .inr (.inl ⟨src, rfl⟩), .inl ⟨rfl, rfl⟩, .inl rfl, fun u => .inl (by cases u <;> rfl)⟩
  | drain =>
    obtain rfl := heff
    exact .inr ⟨rfl, rfl, .inr (.inr rfl), .inl ⟨rfl, rfl⟩, .inl rfl, fun u => .inl (by cases u <;> rfl)⟩
  | crc8 | enct | deca | matchInbox =>
    obtain rfl := heff
    exact .inr (benchFrame_withRes _ s _)

/-! ## The flags and the timers under an operation that is no service -/

theorem State.flag_of_noFlag {s : State} (h : s.anyFlag = false) (u : TimerId) : s.flag u = false := by
  obtain ⟨hwait, hreq, htel⟩ := anyFlag_eq_false_iff.mp h
  cases u with
  | tel => exact htel
  | ackreq => exact hreq
  | ackwait => exact hwait

/-- Only an expiry touches a flag (R28). -/
theorem TimerEffect.flag {i : Instr} {s : State} {u : TimerId} {v : Timer} (h : TimerEffect i s u v) :
    v.flag = s.flag u ∨ (i = .tick ∧ s.flag u = false) := by
  obtain rfl | ⟨I, -, -, rfl⟩ | ⟨-, rfl⟩ | ⟨hi, hno, -⟩ := h
  · exact .inl rfl
  · exact .inl rfl
  · exact .inl rfl
  · exact .inr ⟨hi, State.flag_of_noFlag hno u⟩

/-- A tick stops a timer only if it is the one-shot one. -/
theorem TimerEffect.disarmed {i : Instr} {s : State} {u : TimerId} {v : Timer} (h : TimerEffect i s u v)
    (hs : (s.timer u).armed = true) (hv : v.armed = false) : i = .disarm u ∨ (i = .tick ∧ u = .ackwait) := by
  obtain rfl | ⟨I, -, -, rfl⟩ | ⟨hi, -⟩ | ⟨hi, -, rfl⟩ := h
  · simp [hs] at hv
  · simp at hv
  · exact .inl hi
  · cases u with
    | tel | ackreq => exact absurd (hs.symm.trans ((Timer.tick_armed_periodic _).symm.trans hv)) (by decide)
    | ackwait => exact .inr ⟨hi, rfl⟩

/-- Only a load arms a timer that is not armed. -/
theorem TimerEffect.armed {i : Instr} {s : State} {u : TimerId} {v : Timer} (h : TimerEffect i s u v)
    (hs : (s.timer u).armed = false) (hv : v.armed = true) : ∃ I, i = .arm u I ∨ i = .rearm u I := by
  obtain rfl | ⟨I, -, hi, -⟩ | ⟨-, rfl⟩ | ⟨-, -, rfl⟩ := h
  · simp [hs] at hv
  · exact ⟨I, hi⟩
  · simp at hv
  · simp [Timer.tick_of_idle _ hs, hs] at hv

theorem TimerEffect.interval {i : Instr} {s : State} {u : TimerId} {v : Timer} (h : TimerEffect i s u v)
    (hne : v.interval ≠ (s.timer u).interval) : ∃ I, i = .arm u I ∨ i = .rearm u I := by
  obtain rfl | ⟨I, -, hi, -⟩ | ⟨-, rfl⟩ | ⟨-, -, rfl⟩ := h
  · exact absurd rfl hne
  · exact ⟨I, hi⟩
  · exact absurd rfl hne
  · exact absurd (Timer.tick_interval _ _) hne

theorem TimerEffect.count {i : Instr} {s : State} {u : TimerId} {v : Timer} (h : TimerEffect i s u v)
    (hne : v.count ≠ (s.timer u).count) : (∃ I, i = .arm u I ∨ i = .rearm u I) ∨ i = .disarm u ∨ i = .tick := by
  obtain rfl | ⟨I, -, hi, -⟩ | ⟨hi, -⟩ | ⟨hi, -, -⟩ := h
  · exact absurd rfl hne
  · exact .inl ⟨I, hi⟩
  · exact .inr (.inl hi)
  · exact .inr (.inr hi)

/-- A service loads the timers that `Loads` says. -/
theorem loads_of_serves {i : Instr} {s : State} {u w : TimerId} (hserves : Serves i s u) (h : ServiceLoads u w) : Loads i s w := by
  obtain ⟨hw, rfl⟩ | ⟨hw, rfl⟩ := h
  · exact .inr (.inl ⟨hw, hserves⟩)
  · exact .inr (.inr ⟨hw, hserves⟩)

/-! ## O41, O53 -/

/-- Settles O41: a service keeps to its frame, and every other operation to the frame of those. -/
theorem registersHaveOnlyTheirNamedWriters : Obligations.RegistersHaveOnlyTheirNamedWriters := by
  unfold Obligations.RegistersHaveOnlyTheirNamedWriters
  intro i s t h
  obtain ⟨u, hserves, hexec⟩ | hb := exec_service_or_bench h
  · have hf := exec_serviceOf_frame hexec
    have isTel (hne : ¬ (t.seq = s.seq ∧ t.txbuf = s.txbuf ∧ t.ev = s.ev)) : Serves i s .tel := by
      by_contra hnot
      exact hne (hf.telOnly fun hu => hnot (hu ▸ hserves))
    have isWait (hne : ¬ (t.retryCount = s.retryCount ∧ t.ackInterval = s.ackInterval ∧ t.pktInterval = s.pktInterval ∧
        t.inbox = s.inbox ∧ t.inboxValid = s.inboxValid)) : Serves i s .ackwait := by
      by_contra hnot
      exact hne (hf.waitOnly fun hu => hnot (hu ▸ hserves))
    refine ⟨hf.cfg, fun hne => isTel ?_, fun _ => ⟨u, hserves⟩, fun hne => .inr (.inr (isTel ?_)), fun hne => isWait ?_,
      fun hne => .inr (isWait ?_), fun hne => absurd hf.lut hne, fun w hclear hset => ?_, fun w hset hclear => ?_⟩
    · tauto
    · tauto
    · tauto
    · tauto
    · by_cases hw : w = u
      · subst hw
        simp [hf.flag] at hset
      · simp [hf.otherFlags w hw, hclear] at hset
    · by_cases hw : w = u
      · exact hw ▸ hserves
      · simp [hf.otherFlags w hw, hset] at hclear
  · refine ⟨hb.cfg, fun hne => ?_, fun hne => absurd hb.options hne, fun hne => ?_, fun hne => ?_, fun hne => ?_,
      fun hne => hb.lut.resolve_left hne, fun w hclear hset => ?_, fun w hset hclear => ?_⟩
    · simp [hb.seq, hb.txbuf] at hne
    · exact (hb.ev.resolve_left hne).imp_right .inl
    · simp [hb.retryCount, hb.ackInterval, hb.pktInterval] at hne
    · obtain ⟨hinbox, hvalid⟩ | ⟨len, d0, d1, d2, hi, -⟩ := hb.inbox
      · simp [hinbox, hvalid] at hne
      · exact .inl ⟨len, d0, d1, d2, hi⟩
    · obtain hsame | ⟨hi, -⟩ := (hb.timer w).flag
      · exact absurd (hset.symm.trans (hsame.trans hclear)) (by decide)
      · exact hi
    · obtain hsame | ⟨-, hno⟩ := (hb.timer w).flag
      · exact absurd (hset.symm.trans (hsame.symm.trans hclear)) (by decide)
      · exact absurd (hset.symm.trans hno) (by decide)

/-- Settles O53: a service changes only the timers it loads, and stops none. -/
theorem timersHaveOnlyTheirNamedWriters : Obligations.TimersHaveOnlyTheirNamedWriters := by
  unfold Obligations.TimersHaveOnlyTheirNamedWriters
  intro i s t w h
  obtain ⟨u, hserves, hexec⟩ | hb := exec_service_or_bench h
  · have hf := exec_serviceOf_frame hexec
    have isLoad (hne : ¬ ((t.timer w).armed = (s.timer w).armed ∧ (t.timer w).interval = (s.timer w).interval ∧
        (t.timer w).count = (s.timer w).count)) : Loads i s w := by
      by_contra hnot
      exact hne (hf.notLoaded w fun hload => hnot (loads_of_serves hserves hload))
    refine ⟨fun hne => isLoad ?_, fun hs ht => isLoad ?_, fun hs ht => ?_, fun hne => .inl (isLoad ?_)⟩
    · tauto
    · simp [hs, ht]
    · simp [hf.armed w hs] at ht
    · tauto
  · exact ⟨fun hne => .inl ((hb.timer w).interval hne), fun hs ht => .inl ((hb.timer w).armed hs ht), (hb.timer w).disarmed,
      fun hne => ((hb.timer w).count hne).imp_left .inl⟩

/-! ## O40 -/

theorem inboxMatches_of_invalid {s : State} (h : s.inboxValid = false) : inboxMatches s = false := by
  simp [inboxMatches, h]

/-- Only a datagram of three bytes makes the inbox valid (R158). -/
theorem exec_inboxValid {i : Instr} {s t : State} (h : exec i s = .next t)
    (hrxd : ∀ len d0 d1 d2, i = .rxd len d0 d1 d2 → len.toNat ≠ 3) (hs : s.inboxValid = false) : t.inboxValid = false := by
  obtain ⟨u, -, hexec⟩ | hb := exec_service_or_bench h
  · exact (exec_serviceOf_frame hexec).inboxValid hs
  · obtain ⟨-, hvalid⟩ | ⟨len, d0, d1, d2, hi, hlen⟩ := hb.inbox
    · exact hvalid.trans hs
    · exact absurd hlen (hrxd len d0 d1 d2 hi)

/-- Settles O40: a match clears the inbox, and only a new datagram fills it. -/
theorem oneAcknowledgementSatisfiesOneWait : Obligations.OneAcknowledgementSatisfiesOneWait := by
  unfold Obligations.OneAcknowledgementSatisfiesOneWait
  refine ⟨fun s t h hacked => ?_, fun i u v hu hrxd h => ?_, fun u v hu h => ?_⟩
  · obtain ⟨-, ⟨-, -, rfl⟩ | ⟨-, -, -, -, rfl⟩ | ⟨-, rfl⟩⟩ := serviceWait_cases (exec_next.mp h)
    · rfl
    · rfl
    · simp [backedOff, State.clearFlag] at hacked
  · have hv := exec_inboxValid h hrxd hu
    exact ⟨hv, by rw [exec_matchInbox, inboxMatches_of_invalid hv]⟩
  · have hmatch : inboxMatches (u.withRes .none) = false := inboxMatches_of_invalid hu
    obtain ⟨-, ⟨htrue, -⟩ | ⟨htrue, -⟩ | ⟨-, rfl⟩⟩ := serviceWait_cases (exec_next.mp h)
    · simp [hmatch] at htrue
    · simp [hmatch] at htrue
    · simp [backedOff, State.clearFlag]

/-! ## O42, O43, O44 -/

/-- In a legal configuration a service completes if its flag is set, and is refused by that name if it is clear. -/
theorem exec_serviceOf_completes {s : State} (hv : s.cfg.valid = true) (u : TimerId) :
    (∃ t, exec (serviceOf u) s = .next t) ∨ (s.flag u = false ∧ exec (serviceOf u) s = .refused (.flagClear u)) := by
  cases hflag : s.flag u with
  | false =>
    obtain ⟨htel, hreq, hwait⟩ := servicesAreRefusedWithTheirFlagClear s
    cases u with
    | tel => exact .inr ⟨rfl, htel hflag⟩
    | ackreq => exact .inr ⟨rfl, hreq hflag⟩
    | ackwait => exact .inr ⟨rfl, hwait hflag⟩
  | true =>
    cases u with
    | tel => exact .inl ⟨_, serviceTel_next (s := s.withRes .none).mpr ⟨hflag, rfl⟩⟩
    | ackreq =>
      obtain ⟨-, -, hwait, -⟩ := valid_iff.mp hv
      exact .inl ⟨_, serviceReq_next (s := s.withRes .none).mpr ⟨hflag, hwait, rfl⟩⟩
    | ackwait => exact .inl (serviceWait_completes (s := s.withRes .none) hv hflag)

/-- Settles O42. -/
theorem everyOperationCompletesOrIsRefusedByName : Obligations.EveryOperationCompletesOrIsRefusedByName := by
  unfold Obligations.EveryOperationCompletesOrIsRefusedByName
  intro i s hv
  cases i with
  | svctel => exact (exec_serviceOf_completes hv .tel).imp_right fun h => .inr ⟨.tel, rfl, h⟩
  | svcreq => exact (exec_serviceOf_completes hv .ackreq).imp_right fun h => .inr ⟨.ackreq, rfl, h⟩
  | svcwait => exact (exec_serviceOf_completes hv .ackwait).imp_right fun h => .inr ⟨.ackwait, rfl, h⟩
  | poll =>
    obtain ⟨t, ht, -⟩ := poll_completes hv
    exact .inl ⟨t, ht⟩
  | arm u I =>
    by_cases hI : I = 0
    · subst hI
      exact .inr (.inl ⟨u, .inl rfl, exec_arm_zero u s⟩)
    · exact .inl ⟨_, exec_arm hI u s⟩
  | rearm u I =>
    by_cases hI : I = 0
    · subst hI
      exact .inr (.inl ⟨u, .inr rfl, exec_rearm_zero u s⟩)
    · exact .inl ⟨_, exec_rearm hI u s⟩
  | tick =>
    cases hflag : s.anyFlag with
    | false => exact .inl ⟨_, exec_tick hflag⟩
    | true => exact .inl ⟨_, exec_next.mpr (.inr ⟨hflag, rfl⟩)⟩
  | rxd len d0 d1 d2 =>
    by_cases hlen : len.toNat = 3
    · exact .inl ⟨_, exec_rxd_three hlen d0 d1 d2 s⟩
    · exact .inl ⟨_, exec_rxd_other hlen d0 d1 d2 s⟩
  | lutgen | crc8 | enct | deca | matchInbox | recEvent | drain | disarm => exact .inl ⟨_, exec_next.mpr rfl⟩

/-- Settles O43: only the telemetry service sends a frame, and it alone advances `SEQ`. -/
theorem consecutiveFramesCarryConsecutiveNumbers : Obligations.ConsecutiveFramesCarryConsecutiveNumbers := by
  unfold Obligations.ConsecutiveFramesCarryConsecutiveNumbers
  intro i s t h
  obtain ⟨u, -, hexec⟩ | hb := exec_service_or_bench h
  · by_cases hu : u = .tel
    · subst hu
      have ht := serviceTel_fields (exec_next.mp hexec)
      refine ⟨_, ht.emitted.trans (List.append_assoc ..), .inr ⟨telemetryFrame s, _, rfl, fun g => ?_, rfl, ?_⟩⟩
      · cases hk : s.draw.ok <;> simp [hk]
      · rw [ht.seq, BitVec.toNat_add]
        rfl
    · have hf := exec_serviceOf_frame hexec
      obtain ⟨new, hnew, hnone⟩ := hf.silent hu
      exact ⟨new, hnew, .inl ⟨(hf.telOnly hu).1, hnone⟩⟩
  · exact ⟨[], by simp [hb.emitted], .inl ⟨hb.seq, by simp⟩⟩

/-- Settles O44: a sent frame is the telemetry frame of the state before. -/
theorem sentFramesAreWellFormed : Obligations.SentFramesAreWellFormed := by
  unfold Obligations.SentFramesAreWellFormed
  intro i s t h
  obtain ⟨new, hnew, honly⟩ := exec_sendsOnlyTelemetry h
  refine ⟨new, hnew, fun f hf => ?_⟩
  obtain rfl := honly f hf
  obtain ⟨hbit, hreserved⟩ := hardwireOptions_bits s.options
  refine ⟨hbit, hreserved, hardwireEv_bit7 s.ev, ?_⟩
  rw [telemetryFrame, frameBytes_encodeTelemetry]
  exact exec_crc8 (frameHead s.cfg.senderId s.seq s.readOptions s.draw.sensor s.readEv) s

end Sys2Proof.Machine
end

section
/-! The invariant of every run: each write of the state keeps it, hence every operation and every step (10_state.md R41;
60_exceptions.md R180): O47, O50. -/

namespace Sys2Proof.Machine

/-! ## Timers and byte spaces -/

theorem Timer.sane_load {I : Word} (hI : I ≠ 0) (T : Timer) : (T.load I).sane := Timer.sane_loaded hI T.flag

theorem Timer.sane_stop (T : Timer) : T.stop.sane := Timer.sane_stopped T.interval T.flag

/-- R41 (c) does not speak of the flag. -/
theorem Timer.sane.setFlag {T : Timer} (h : T.sane) (flag : Bool) : Timer.sane { T with flag := flag } := h

/-- A tick counts down to 1; then a periodic timer is full again and the one-shot timer is stopped. -/
theorem Timer.sane.tick {T : Timer} (h : T.sane) (m : Mode) : (T.tick m).sane := by
  have hcount := h.2
  cases harmed : T.armed with
  | false => rwa [Timer.tick_of_idle m harmed]
  | true =>
    obtain ⟨hpos, hle⟩ := hcount harmed
    by_cases hone : T.count.toNat = 1
    · rw [Timer.tick_of_expired m harmed hone]
      cases m with
      | periodic => exact ⟨fun hidle => absurd (harmed.symm.trans hidle) (by decide), fun _ => ⟨hpos.trans hle, Nat.le_refl _⟩⟩
      | oneShot => exact Timer.sane_stopped T.interval true
    · rw [Timer.tick_of_counting m harmed (by omega)]
      refine ⟨fun hidle => absurd (harmed.symm.trans hidle) (by decide), fun _ => ?_⟩
      simp only [sub_one_toNat hpos]
      omega

theorem Memory.read_of_within {m : Memory} {n a : Nat} (hm : m.within n) (ha : n ≤ a) : m.read a = blankByte := by
  induction m with
  | nil => rfl
  | cons c m ih =>
    have hc : c.1 < n := hm c (by simp)
    rw [Memory.read, if_neg (by omega)]
    exact ih fun d hd => hm d (by simp [hd])

theorem Memory.ok.writeList {m : Memory} {size : Nat} (h : Memory.ok size m) {vs : List Byte} (hlen : vs.length ≤ size) :
    Memory.ok size (m.writeList 0 vs) :=
  ⟨Memory.wf_writeList h.1 0 vs, Memory.within_writeList h.2 (by omega)⟩

/-! ## Each write of the state keeps the invariant -/

section
variable {s : State} (hs : s.Inv)
include hs

/-- The environment's side takes no part in the invariant. -/
theorem State.Inv.withEnv (e : Env) : State.Inv { s with env := e } :=
  ⟨hs.cfgValid, hs.options, hs.ev, hs.retryCount, hs.timers, hs.inboxEmpty, hs.lut, hs.spaces⟩

theorem State.Inv.withSeq (q : Byte) : State.Inv { s with seq := q } :=
  ⟨hs.cfgValid, hs.options, hs.ev, hs.retryCount, hs.timers, hs.inboxEmpty, hs.lut, hs.spaces⟩

theorem State.Inv.withIntervals (p a : Word) : State.Inv { s with pktInterval := p, ackInterval := a } :=
  ⟨hs.cfgValid, hs.options, hs.ev, hs.retryCount, hs.timers, hs.inboxEmpty, hs.lut, hs.spaces⟩

theorem State.Inv.withRetryCount {n : Half} (hn : n.toNat ≤ s.cfg.retryMax.toNat) : State.Inv { s with retryCount := n } :=
  ⟨hs.cfgValid, hs.options, hs.ev, hn, hs.timers, hs.inboxEmpty, hs.lut, hs.spaces⟩

theorem State.Inv.writeOptions (v : Byte) : (s.writeOptions v).Inv :=
  ⟨hs.cfgValid, hardwireOptions_bits v, hs.ev, hs.retryCount, hs.timers, hs.inboxEmpty, hs.lut, hs.spaces⟩

theorem State.Inv.writeEv (v : Byte) : (s.writeEv v).Inv :=
  ⟨hs.cfgValid, hs.options, hardwireEv_bit7 v, hs.retryCount, hs.timers, hs.inboxEmpty, hs.lut, hs.spaces⟩

theorem State.Inv.setTimer (u : TimerId) {v : Timer} (hv : v.sane) : (s.setTimer u v).Inv := by
  have htimers (w : TimerId) : ((s.setTimer u v).timer w).sane := by
    by_cases hw : w = u
    · subst hw
      rwa [State.timer_setTimer_same]
    · rw [s.timer_setTimer_of_ne v hw]
      exact hs.timers w
  cases u <;> exact ⟨hs.cfgValid, hs.options, hs.ev, hs.retryCount, htimers, hs.inboxEmpty, hs.lut, hs.spaces⟩

theorem State.Inv.clearFlag (u : TimerId) : (s.clearFlag u).Inv := hs.setTimer u ((hs.timers u).setFlag false)

theorem State.Inv.loadBoth {a b : Word} (ha : a ≠ 0) (hb : b ≠ 0) : (loadBoth a b s).Inv :=
  ((hs.setTimer .tel (Timer.sane_load ha s.tel)).setTimer .ackreq (Timer.sane_load hb s.ackreq)).withIntervals a b

theorem State.Inv.tickTimers : (tickTimers s).Inv :=
  ((hs.setTimer .tel ((hs.timers .tel).tick .periodic)).setTimer .ackreq ((hs.timers .ackreq).tick .periodic)).setTimer
    .ackwait ((hs.timers .ackwait).tick .oneShot)

/-- A write of the inbox needs only what the inbox reads as when it is not valid (R41 (h)). -/
theorem State.Inv.withInbox {b : Bool} {vs : List Byte} (hlen : vs.length ≤ 3)
    (hempty : b = false → ∀ a, (s.inbox.writeList 0 vs).read a = 0x00) :
    State.Inv { memWriteList s .inbox 0 vs with inboxValid := b } where
  cfgValid := hs.cfgValid
  options := hs.options
  ev := hs.ev
  retryCount := hs.retryCount
  timers := hs.timers
  inboxEmpty := hempty
  lut := hs.lut
  spaces S := by
    cases S with
    | inbox => exact (hs.spaces .inbox).writeList hlen
    | lut => exact hs.spaces .lut
    | txbuf => exact hs.spaces .txbuf

theorem State.Inv.clearInbox : (clearInbox s).Inv := by
  obtain ⟨hwf, hwithin⟩ := hs.spaces .inbox
  obtain ⟨hzero, hrest⟩ := clearInbox_memRead hwf
  refine hs.withInbox (vs := [0x00, 0x00, 0x00]) (Nat.le_refl 3) fun _ a => ?_
  by_cases ha : a < 3
  · exact hzero a ha
  · exact (hrest a (by omega)).trans (Memory.read_of_within hwithin (Nat.not_lt.mp ha))

theorem State.Inv.writeTxbuf (f : Frame) : (memWriteList s .txbuf 0 (frameBytes f)).Inv where
  cfgValid := hs.cfgValid
  options := hs.options
  ev := hs.ev
  retryCount := hs.retryCount
  timers := hs.timers
  inboxEmpty := hs.inboxEmpty
  lut := hs.lut
  spaces S := by
    cases S with
    | txbuf => exact (hs.spaces .txbuf).writeList (Nat.le_refl 8)
    | lut => exact hs.spaces .lut
    | inbox => exact hs.spaces .inbox

theorem State.Inv.dropDraw : s.dropDraw.Inv := by
  unfold State.dropDraw
  split
  · exact hs.withEnv _
  · exact hs.withEnv _

/-! ## Each service keeps it -/

theorem State.Inv.sendFrame : (sendFrame s).Inv := by
  have hsent := (((hs.writeEv 0x00).writeTxbuf (telemetryFrame s)).withSeq (s.seq + 1)).withEnv
    { s.env with emitted := s.env.emitted ++ [.tx (telemetryFrame s)] }
  exact hsent.dropDraw

theorem State.Inv.afterSend (ok : Bool) : (afterSend ok s).Inv := by
  cases ok with
  | true => exact hs.writeOptions _
  | false => exact hs.withEnv _

theorem serviceTel_inv {t : State} (h : serviceTel s = .next t) : t.Inv := by
  obtain ⟨-, rfl⟩ := serviceTel_next.mp h
  exact (hs.clearFlag .tel).sendFrame.afterSend _

theorem serviceReq_inv {t : State} (h : serviceReq s = .next t) : t.Inv := by
  obtain ⟨-, hwait, rfl⟩ := serviceReq_next.mp h
  exact ((hs.clearFlag .ackreq).writeOptions _).setTimer .ackwait (Timer.sane_load hwait s.ackwait)

theorem backedOff_inv : (backedOff s).Inv := by
  have hcount := nextRetryCount_toNat s.retryCount s.cfg.retryMax
  have hI := backoffInterval_ne_zero hs.cfgValid s.retryCount
  exact (((hs.withRetryCount (n := nextRetryCount s.retryCount s.cfg.retryMax) (by omega)).writeOptions _).loadBoth hI hI).withEnv _

theorem serviceWait_inv {t : State} (h : serviceWait s = .next t) : t.Inv := by
  have hclear := hs.clearFlag .ackwait
  obtain ⟨-, ⟨-, -, rfl⟩ | ⟨-, -, htel, hack, rfl⟩ | ⟨-, rfl⟩⟩ := serviceWait_cases h
  · exact hclear.clearInbox.withEnv _
  · exact ((hclear.clearInbox.withRetryCount (n := 0) (Nat.zero_le _)).loadBoth htel hack).withEnv _
  · exact backedOff_inv hclear

theorem exec_serviceOf_inv {u : TimerId} {t : State} (h : exec (serviceOf u) s = .next t) : t.Inv := by
  have hbus : (s.withRes .none).Inv := hs.withEnv _
  cases u with
  | tel => exact serviceTel_inv hbus (exec_next.mp h)
  | ackreq => exact serviceReq_inv hbus (exec_next.mp h)
  | ackwait => exact serviceWait_inv hbus (exec_next.mp h)

/-! ## Every operation and every step keeps it -/

theorem exec_poll_inv {t : State} (h : exec .poll s = .next t) : t.Inv := by
  cases hnext : s.nextService with
  | some u => exact exec_serviceOf_inv hs ((exec_poll_of_nextService hnext).symm.trans h)
  | none =>
    obtain rfl := Host.Outcome.next.inj ((exec_poll_of_none hnext).symm.trans h)
    exact hs.withEnv _

theorem exec_inv {i : Instr} {t : State} (h : exec i s = .next t) : t.Inv := by
  have heff := exec_next.mp h
  cases i with
  | svctel => exact exec_serviceOf_inv hs (u := .tel) h
  | svcreq => exact exec_serviceOf_inv hs (u := .ackreq) h
  | svcwait => exact exec_serviceOf_inv hs (u := .ackwait) h
  | poll => exact exec_poll_inv hs h
  | arm u I | rearm u I =>
    obtain ⟨hI, rfl⟩ := heff
    exact (hs.setTimer u (Timer.sane_load hI _)).withEnv _
  | disarm u =>
    obtain rfl := heff
    exact (hs.setTimer u (Timer.sane_stop _)).withEnv _
  | tick =>
    obtain ⟨-, rfl⟩ | ⟨-, rfl⟩ := heff
    · exact hs.tickTimers.withEnv _
    · exact hs.withEnv _
  | rxd len d0 d1 d2 =>
    obtain ⟨-, rfl⟩ | ⟨-, rfl⟩ := heff
    · exact (hs.withInbox (vs := [d0, d1, d2]) (Nat.le_refl 3) (fun h => Bool.noConfusion h)).withEnv _
    · exact hs.withEnv _
  | lutgen =>
    rw [exec_lutgen, hs.fillLut_lut] at h
    obtain rfl := Host.Outcome.next.inj h
    exact hs.withEnv _
  | recEvent | drain =>
    obtain rfl := heff
    exact (hs.writeEv _).withEnv _
  | crc8 | enct | deca | matchInbox =>
    obtain rfl := heff
    exact hs.withEnv _

theorem step_inv {t : State} (h : step s = .next t) : t.Inv := by
  obtain ⟨-, h⟩ | ⟨x, rest, i, -, -, -, h⟩ | ⟨x, rest, i, -, -, -, h⟩ | ⟨c, rest, -, hc, rfl⟩ := step_next h
  · exact exec_inv hs h
  · exact exec_inv hs h
  · exact exec_inv (hs.withEnv _) h
  · exact resetIn_inv hc _

end

/-- Settles O47. -/
theorem everyStepKeepsTheInvariant : Obligations.EveryStepKeepsTheInvariant := fun _ _ hs h => step_inv hs h

/-! ## Progress: O50 -/

theorem presentable_operation {x : Issue} (h : presentable (.operation x) = true) :
    ∃ i, decode x = .ok i ∧ i.wellFormed = true ∧ ∀ u, i ≠ serviceOf u := by
  unfold presentable at h
  cases hdec : decode x with
  | error e => simp [hdec] at h
  | ok i =>
    simp only [hdec, Bool.and_eq_true, bne_iff_ne] at h
    obtain ⟨⟨⟨hwf, htel⟩, hreq⟩, hwait⟩ := h
    refine ⟨i, rfl, hwf, fun u => ?_⟩
    cases u with
    | tel => exact htel
    | ackreq => exact hreq
    | ackwait => exact hwait

/-- Neither refusal of R180 is left for an operation that the environment presents. -/
theorem exec_completes {i : Instr} {s : State} (hv : s.cfg.valid = true) (hwf : i.wellFormed = true)
    (hi : ∀ u, i ≠ serviceOf u) : ∃ t, exec i s = .next t := by
  obtain hnext | ⟨u, rfl | rfl, -⟩ | ⟨u, hu, -⟩ := everyOperationCompletesOrIsRefusedByName i s hv
  · exact hnext
  · simp [Instr.wellFormed] at hwf
  · simp [Instr.wellFormed] at hwf
  · exact absurd hu (hi u)

/-- A step with legal inputs presented completes, and what is presented after it is legal. -/
theorem step_completes {s : State} (hs : s.Inv) (hp : ∀ x ∈ s.env.pending, presentable x = true) :
    ∃ t, step s = .next t ∧ ∀ x ∈ t.env.pending, presentable x = true := by
  cases hpend : s.env.pending with
  | nil =>
    obtain ⟨t, ht, -, hsame, -⟩ := poll_completes hs.cfgValid
    exact ⟨t, (step_idle hpend).trans ht, hsame ▸ hp⟩
  | cons x rest =>
    have hrest : ∀ y ∈ rest, presentable y = true := fun y hy => hp y (by simp [hpend, hy])
    have hx : presentable x = true := hp x (by simp [hpend])
    cases x with
    | reset c =>
      have hc : c.valid = true := hx
      exact ⟨_, (step_reset hpend).trans (if_pos hc), hrest⟩
    | operation w =>
      obtain ⟨i, hdec, hwf, hi⟩ := presentable_operation hx
      cases hheld : held i s with
      | true =>
        obtain ⟨t, ht, -, hsame, -⟩ := poll_completes hs.cfgValid
        exact ⟨t, (step_held hpend hdec hheld).trans ht, hsame ▸ hp⟩
      | false =>
        obtain ⟨t, ht⟩ := exec_completes (s := s.withPending rest) hs.cfgValid hwf hi
        have hfree : held i (s.withPending rest) = false := held_eq_false.mpr (held_eq_false.mp hheld)
        have hsame : t.env.pending = rest := exec_pending hfree ht
        exact ⟨t, (step_operation hpend hdec hheld).trans ht, hsame ▸ hrest⟩

/-- Settles O50, by induction on the number of steps. -/
theorem presentedRunsNeverStop : Obligations.PresentedRunsNeverStop := by
  unfold Obligations.PresentedRunsNeverStop
  intro n
  induction n with
  | zero => exact fun s hs _ => hs
  | succ n ih =>
    intro s hs hp
    obtain ⟨t, ht, hpt⟩ := step_completes hs hp
    exact ⟨hs, t, ht, ih t (step_inv hs ht) hpt⟩

end Sys2Proof.Machine
end

section
/-! Sequencer-only runs: the interval law and the phase of the two periodic timers (10_state.md R41; 44_sequencer.md R159;
45_retry_backoff.md R170): O48, O49. -/

namespace Sys2Proof.Machine

/-! ## What a step of a sequencer-only run can be -/

/-- The registers that the interval law and the phase speak of are the same in `s` and `t`. -/
structure SameTiming (s t : State) : Prop where
  cfg         : t.cfg = s.cfg
  retryCount  : t.retryCount = s.retryCount
  ackInterval : t.ackInterval = s.ackInterval
  pktInterval : t.pktInterval = s.pktInterval
  timer       : ∀ u, t.timer u = s.timer u

/-- Outside the services only `ARM`, `REARM`, `DISARM` and `TICK` write a timer. -/
theorem BenchFrame.sameTiming {i : Instr} {s t : State} (h : BenchFrame i s t) (hi : insideServicesOnly i = false)
    (htick : i ≠ .tick) : SameTiming s t := by
  refine ⟨h.cfg, h.retryCount, h.ackInterval, h.pktInterval, fun u => ?_⟩
  obtain hsame | ⟨I, -, rfl | rfl, -⟩ | ⟨rfl, -⟩ | ⟨rfl, -⟩ := h.timer u
  · exact hsame
  · simp [insideServicesOnly] at hi
  · simp [insideServicesOnly] at hi
  · simp [insideServicesOnly] at hi
  · exact absurd rfl htick

theorem exec_sequencer_cases {i : Instr} {s t : State} (h : exec i s = .next t) (hi : insideServicesOnly i = false) :
    (∃ u, exec (serviceOf u) s = .next t) ∨ (s.anyFlag = false ∧ t = (tickTimers s).withRes .none) ∨ SameTiming s t := by
  by_cases htick : i = .tick
  · subst htick
    obtain hticked | ⟨-, rfl⟩ := exec_next.mp h
    · exact .inr (.inl hticked)
    · exact .inr (.inr ⟨rfl, rfl, rfl, rfl, fun u => by cases u <;> rfl⟩)
  · obtain ⟨u, -, hexec⟩ | hb := exec_service_or_bench h
    · exact .inl ⟨u, hexec⟩
    · exact .inr (.inr (hb.sameTiming hi htick))

/-- A step of a sequencer-only run is an operation of such a run or a reset. -/
theorem step_sequencer_cases {s t : State} (hseq : sequencerOnly s = true) (h : step s = .next t) :
    (∃ i p, insideServicesOnly i = false ∧ exec i (s.withPending p) = .next t) ∨ ∃ c e, t = State.resetIn c e := by
  obtain ⟨-, h⟩ | ⟨x, rest, i, -, -, -, h⟩ | ⟨x, rest, i, hp, hdec, hheld, h⟩ | ⟨c, rest, -, -, rfl⟩ := step_next h
  · exact .inl ⟨.poll, s.env.pending, rfl, h⟩
  · exact .inl ⟨.poll, s.env.pending, rfl, h⟩
  · refine .inl ⟨i, rest, ?_, h⟩
    simpa [sequencerOnly, nextMove, hp, hdec, hheld] using hseq
  · exact .inr ⟨c, _, rfl⟩

/-! ## The interval law (R170) -/

/-- The law does not speak of the counts, nor of the flags. -/
theorem State.LoopInv.congr {s t : State} (hl : s.LoopInv) (hcfg : t.cfg = s.cfg) (hcount : t.retryCount = s.retryCount)
    (hack : t.ackInterval = s.ackInterval) (hpkt : t.pktInterval = s.pktInterval)
    (htel : t.tel.armed = s.tel.armed ∧ t.tel.interval = s.tel.interval)
    (hreq : t.ackreq.armed = s.ackreq.armed ∧ t.ackreq.interval = s.ackreq.interval)
    (hwait : t.ackwait.interval = s.cfg.ackWait) : t.LoopInv where
  armed := by rw [htel.1, hreq.1]; exact hl.armed
  intervals := by rw [htel.2, hreq.2, hack, hpkt, hcfg]; exact ⟨hl.intervals.1, hl.intervals.2.1, hwait⟩
  healthy := by rw [hcount, hack, hpkt, hcfg]; exact hl.healthy
  degraded := by rw [hcount, hack, hpkt, hcfg]; exact hl.degraded

/-- A count that has gone up is not 0, unless its ceiling is (log 18). -/
theorem nextRetryCount_ne_zero {b : Half} (hb : b ≠ 0) (a : Half) : nextRetryCount a b ≠ 0 := by
  have hcount := nextRetryCount_toNat a b
  bv_omega

theorem nextRetryCount_le (a b : Half) : (nextRetryCount a b).toNat ≤ b.toNat := by
  rw [nextRetryCount_toNat]
  exact Nat.min_le_right _ _

theorem backedOff_loopInv {s : State} (hv : s.cfg.valid = true) (hwait : s.ackwait.interval = s.cfg.ackWait)
    (hmax : s.cfg.retryMax ≠ 0) : (backedOff s).LoopInv where
  armed := ⟨rfl, rfl⟩
  intervals := ⟨rfl, rfl, hwait⟩
  healthy hzero := absurd hzero (nextRetryCount_ne_zero hmax s.retryCount)
  degraded _ := ⟨rfl, backoffInterval_toNat hv _ (nextRetryCount_le s.retryCount s.cfg.retryMax)⟩

theorem loadBoth_base_loopInv {s : State} (hcount : s.retryCount = 0) (hwait : s.ackwait.interval = s.cfg.ackWait) :
    (loadBoth s.cfg.baseTel s.cfg.baseAck s).LoopInv where
  armed := ⟨rfl, rfl⟩
  intervals := ⟨rfl, rfl, hwait⟩
  healthy _ := ⟨rfl, rfl⟩
  degraded hne := absurd hcount hne

section
variable {s : State} (hl : s.LoopInv)
include hl

theorem State.LoopInv.withEnv (e : Env) : State.LoopInv { s with env := e } :=
  ⟨hl.armed, hl.intervals, hl.healthy, hl.degraded⟩

theorem State.LoopInv.emit (o : Output) : (s.emit o).LoopInv := hl.withEnv _

theorem serviceTel_loopInv {t : State} (h : serviceTel s = .next t) : t.LoopInv := by
  have ht := serviceTel_fields h
  obtain ⟨-, -, hwait⟩ := hl.intervals
  exact hl.congr ht.cfg ht.retryCount ht.ackInterval ht.pktInterval (by simp [ht.tel]) (by simp [ht.ackreq])
    (by rw [ht.ackwait, hwait])

theorem serviceReq_loopInv {t : State} (h : serviceReq s = .next t) : t.LoopInv := by
  obtain ⟨-, -, rfl⟩ := serviceReq_next.mp h
  exact hl.congr rfl rfl rfl rfl ⟨rfl, rfl⟩ ⟨rfl, rfl⟩ rfl

theorem serviceWait_loopInv (hv : s.cfg.valid = true) (hmax : s.cfg.retryMax ≠ 0) {t : State}
    (h : serviceWait s = .next t) : t.LoopInv := by
  obtain ⟨-, -, hwait⟩ := hl.intervals
  obtain ⟨-, ⟨-, -, rfl⟩ | ⟨-, -, -, -, rfl⟩ | ⟨-, rfl⟩⟩ := serviceWait_cases h
  · exact hl.congr rfl (by simp [State.clearFlag]) (by simp [State.clearFlag]) (by simp [State.clearFlag]) ⟨rfl, rfl⟩
      ⟨rfl, rfl⟩ hwait
  · exact (loadBoth_base_loopInv (s := { clearInbox (s.clearFlag .ackwait) with retryCount := 0 }) rfl hwait).emit _
  · exact backedOff_loopInv (s := s.clearFlag .ackwait) hv hwait hmax

theorem exec_loopInv (hv : s.cfg.valid = true) (hmax : s.cfg.retryMax ≠ 0) {i : Instr} {t : State}
    (hi : insideServicesOnly i = false) (h : exec i s = .next t) : t.LoopInv := by
  obtain ⟨-, -, hwait⟩ := hl.intervals
  obtain ⟨u, h⟩ | ⟨-, rfl⟩ | hsame := exec_sequencer_cases h hi
  · have hbus : (s.withRes .none).LoopInv := hl.withEnv _
    cases u with
    | tel => exact serviceTel_loopInv hbus (exec_next.mp h)
    | ackreq => exact serviceReq_loopInv hbus (exec_next.mp h)
    | ackwait => exact serviceWait_loopInv hbus hv hmax (exec_next.mp h)
  · exact hl.congr rfl rfl rfl rfl ⟨Timer.tick_armed_periodic s.tel, Timer.tick_interval _ s.tel⟩
      ⟨Timer.tick_armed_periodic s.ackreq, Timer.tick_interval _ s.ackreq⟩ ((Timer.tick_interval _ s.ackwait).trans hwait)
  · have htel : t.tel = s.tel := hsame.timer .tel
    have hreq : t.ackreq = s.ackreq := hsame.timer .ackreq
    have hwaitSame : t.ackwait = s.ackwait := hsame.timer .ackwait
    exact hl.congr hsame.cfg hsame.retryCount hsame.ackInterval hsame.pktInterval (by simp [htel]) (by simp [hreq])
      (by rw [hwaitSame, hwait])

end

/-- Settles O48: the services that rearm the periodic timers write the interval of the count they leave. -/
theorem sequencerOnlyStepKeepsTheIntervalLaw : Obligations.SequencerOnlyStepKeepsTheIntervalLaw := by
  unfold Obligations.SequencerOnlyStepKeepsTheIntervalLaw
  intro s t hs hl hmax hseq h
  obtain ⟨i, p, hi, h⟩ | ⟨c, e, rfl⟩ := step_sequencer_cases hseq h
  · exact exec_loopInv (hl.withEnv { s.env with pending := p }) hs.cfgValid hmax hi h
  · exact resetIn_loopInv c e

/-! ## The phase of the periodic timers (R159) -/

/-- In a run with `CFG.BASE_ACK` a multiple of `CFG.BASE_TEL` both intervals are a multiple of the telemetry period while
`Healthy`, so each tick takes both counts down by 1 modulo that period. -/
theorem Timer.tick_count_modEq {T : Timer} {n : Nat} (harmed : T.armed = true) (hsane : T.sane) (hdvd : n ∣ T.interval.toNat) :
    (T.tick .periodic).count.toNat + 1 ≡ T.count.toNat [MOD n] := by
  obtain ⟨hpos, -⟩ := hsane.2 harmed
  by_cases hone : T.count.toNat = 1
  · rw [Timer.tick_of_expired .periodic harmed hone, hone]
    exact (Nat.modEq_zero_iff_dvd.mpr hdvd).add_right 1
  · rw [Timer.tick_of_counting .periodic harmed (by omega)]
    simp only [sub_one_toNat hpos]
    rw [Nat.sub_add_cancel hpos]

/-- Only an expiry sets a flag. -/
theorem Timer.count_of_tick_flag {T : Timer} {m : Mode} (hsane : T.sane) (hclear : T.flag = false)
    (hset : (T.tick m).flag = true) : T.armed = true ∧ T.count.toNat = 1 := by
  cases harmed : T.armed with
  | false => simp [Timer.tick_of_idle m harmed, hclear] at hset
  | true =>
    obtain ⟨hpos, -⟩ := hsane.2 harmed
    refine ⟨rfl, ?_⟩
    by_contra hone
    simp [Timer.tick_of_counting m harmed (by omega), hclear] at hset

/-- A count from 1 to the period that is 1 modulo the period is 1. -/
theorem eq_one_of_modEq_one {c n : Nat} (hpos : 1 ≤ c) (hle : c ≤ n) (h : c ≡ 1 [MOD n]) : c = 1 := by
  have hzero : (c - 1) % n = 0 := Nat.sub_mod_eq_zero_of_mod_eq h
  rw [Nat.mod_eq_of_lt (by omega)] at hzero
  omega

/-- What a tick makes of the count depends on nothing but the armed bit, the interval and the count. -/
theorem Timer.tick_count_congr {T U : Timer} (harmed : T.armed = U.armed) (hinterval : T.interval = U.interval)
    (hcount : T.count = U.count) : (T.tick .periodic).count = (U.tick .periodic).count := by
  simp only [Timer.tick, Timer.expire, harmed, hinterval, hcount]
  split
  · split <;> rfl
  · exact hcount

/-- The phase speaks of the two counts, and of `RETRY_COUNT` and the configuration. -/
theorem State.InPhase.congr {s t : State} (hphase : s.InPhase) (hcfg : t.cfg = s.cfg) (hcount : t.retryCount = s.retryCount)
    (htel : t.tel.count = s.tel.count) (hreq : t.ackreq.count = s.ackreq.count) : t.InPhase := by
  unfold State.InPhase
  rw [hcfg, hcount, htel, hreq]
  exact hphase

theorem State.InPhase.emit {s : State} (h : s.InPhase) (o : Output) : (s.emit o).InPhase := h

/-- Timers loaded with one interval are in phase, whatever the count. -/
theorem backedOff_inPhase (s : State) : (backedOff s).InPhase := ⟨fun _ => rfl, fun _ => rfl⟩

theorem loadBoth_base_inPhase {s : State} (hcount : s.retryCount = 0) (hdvd : s.cfg.baseTel.toNat ∣ s.cfg.baseAck.toNat) :
    (loadBoth s.cfg.baseTel s.cfg.baseAck s).InPhase := by
  refine ⟨fun _ => ?_, fun hne => absurd hcount hne⟩
  simp [Nat.mod_eq_zero_of_dvd hdvd]

section
variable {s : State} (hs : s.Inv) (hl : s.LoopInv) (hphase : s.InPhase) (hdvd : s.cfg.baseTel.toNat ∣ s.cfg.baseAck.toNat)
include hs hl hphase

/-- The telemetry timer is at its last tick whenever the request timer is. -/
theorem tel_count_of_ackreq_count (hone : s.ackreq.count.toNat = 1) : s.tel.count.toNat = 1 := by
  by_cases hcount : s.retryCount = 0
  · obtain ⟨hpkt, -, -⟩ := hl.intervals
    obtain ⟨hpos, hle⟩ := (hs.timers .tel).2 hl.armed.1
    have hperiod : s.tel.interval = s.cfg.baseTel := hpkt.symm.trans (hl.healthy hcount).2
    have hmod := hphase.1 hcount
    rw [hone] at hmod
    exact eq_one_of_modEq_one hpos (hperiod ▸ hle) hmod.symm
  · rw [← hphase.2 hcount, hone]

theorem tickTimers_expire_together (hclear : s.ackreq.flag = false) (hset : (tickTimers s).ackreq.flag = true) :
    (tickTimers s).tel.flag = true := by
  obtain ⟨-, hone⟩ := Timer.count_of_tick_flag (hs.timers .ackreq) hclear hset
  rw [tickTimers_tel, Timer.tick_of_expired .periodic hl.armed.1 (tel_count_of_ackreq_count hs hl hphase hone)]
  rfl

include hdvd

theorem tickTimers_inPhase : (tickTimers s).InPhase := by
  obtain ⟨hpkt, hack, -⟩ := hl.intervals
  obtain ⟨htelArmed, hreqArmed⟩ := hl.armed
  constructor
  · intro hcount
    obtain ⟨hbaseAck, hbaseTel⟩ := hl.healthy hcount
    have htel : (s.tel.tick .periodic).count.toNat + 1 ≡ s.tel.count.toNat [MOD s.cfg.baseTel.toNat] :=
      Timer.tick_count_modEq htelArmed (hs.timers .tel) (by rw [← hpkt, hbaseTel])
    have hreq : (s.ackreq.tick .periodic).count.toNat + 1 ≡ s.ackreq.count.toNat [MOD s.cfg.baseTel.toNat] :=
      Timer.tick_count_modEq hreqArmed (hs.timers .ackreq) (by rw [← hack, hbaseAck]; exact hdvd)
    exact Nat.ModEq.add_right_cancel' 1 (hreq.trans ((hphase.1 hcount : _ ≡ _ [MOD _]).trans htel.symm))
  · intro hcount
    obtain ⟨hsame, -⟩ := hl.degraded hcount
    exact Timer.tick_count_congr (hreqArmed.trans htelArmed.symm) (by rw [← hack, hsame, hpkt]) (hphase.2 hcount)

omit hs hl

theorem exec_serviceOf_inPhase {u : TimerId} {t : State} (h : exec (serviceOf u) s = .next t) : t.InPhase := by
  have h := exec_next.mp h
  cases u with
  | tel =>
    have ht := serviceTel_fields h
    exact hphase.congr ht.cfg ht.retryCount (by simp [ht.tel]) (by simp [ht.ackreq])
  | ackreq =>
    obtain ⟨-, -, rfl⟩ := serviceReq_next.mp h
    exact hphase.congr rfl rfl rfl rfl
  | ackwait =>
    obtain ⟨-, ⟨-, -, rfl⟩ | ⟨-, -, -, -, rfl⟩ | ⟨-, rfl⟩⟩ := serviceWait_cases h
    · exact hphase.congr (by simp [State.clearFlag]) (by simp [State.clearFlag]) rfl rfl
    · exact (loadBoth_base_inPhase (s := { clearInbox ((s.withRes .none).clearFlag .ackwait) with retryCount := 0 }) rfl
        hdvd).emit _
    · exact backedOff_inPhase _

include hs hl

theorem exec_inPhase {i : Instr} {t : State} (hi : insideServicesOnly i = false) (h : exec i s = .next t) : t.InPhase := by
  obtain ⟨u, h⟩ | ⟨-, rfl⟩ | hsame := exec_sequencer_cases h hi
  · exact exec_serviceOf_inPhase hphase hdvd h
  · exact tickTimers_inPhase hs hl hphase hdvd
  · have htel : t.tel = s.tel := hsame.timer .tel
    have hreq : t.ackreq = s.ackreq := hsame.timer .ackreq
    exact hphase.congr hsame.cfg hsame.retryCount (by rw [htel]) (by rw [hreq])

omit hdvd

theorem exec_expire_together {i : Instr} {t : State} (hi : insideServicesOnly i = false) (h : exec i s = .next t)
    (hclear : s.ackreq.flag = false) (hset : t.ackreq.flag = true) : t.tel.flag = true := by
  obtain ⟨u, h⟩ | ⟨-, rfl⟩ | hsame := exec_sequencer_cases h hi
  · have hf := exec_serviceOf_frame h
    have hset : t.flag .ackreq = true := hset
    have hclear : s.flag .ackreq = false := hclear
    by_cases hu : .ackreq = u
    · subst hu
      exact absurd (hf.flag.symm.trans hset) (by decide)
    · exact absurd (hclear.symm.trans ((hf.otherFlags _ hu).symm.trans hset)) (by decide)
  · exact tickTimers_expire_together hs hl hphase hclear hset
  · have hreq : t.ackreq = s.ackreq := hsame.timer .ackreq
    simp [hreq, hclear] at hset

end

/-- Settles O49: an expiry is the work of a `TICK`, and in phase the request timer's last tick is the telemetry timer's as
well. -/
theorem requestAndTelemetryExpireTogether : Obligations.RequestAndTelemetryExpireTogether := by
  unfold Obligations.RequestAndTelemetryExpireTogether
  intro s t hs hl hphase _ hdvd hseq h
  obtain ⟨i, p, hi, h⟩ | ⟨c, e, rfl⟩ := step_sequencer_cases hseq h
  · have hsp : (s.withPending p).Inv := hs.withEnv _
    have hlp : (s.withPending p).LoopInv := hl.withEnv _
    have hphasep : (s.withPending p).InPhase := hphase
    exact ⟨fun _ => exec_inPhase hsp hlp hphasep hdvd hi h, exec_expire_together hsp hlp hphasep hi h⟩
  · exact ⟨fun hdvd => resetIn_inPhase (by simpa using hdvd) e, fun _ hset => by simp at hset⟩

end Sys2Proof.Machine
end

section
/-! The first telemetry time after reset (44_sequencer.md R159; 70_reset_and_hazards.md R212, R213): O12. -/

namespace Sys2Proof.Machine

/-! ## Before the first telemetry time -/

/-- A state after reset in which no timer has expired yet; the telemetry timer expires no later than the request timer. -/
structure Quiet (c : Cfg) (s : State) : Prop where
  cfg      : s.cfg = c
  seq      : s.seq = c.seqInit
  emitted  : s.env.emitted = []
  noFlag   : s.anyFlag = false
  tel      : s.tel.armed = true
  ackreq   : s.ackreq.armed = true
  ackwait  : s.ackwait.armed = false
  order    : s.tel.count.toNat ≤ s.ackreq.count.toNat

theorem quiet_reset {c : Cfg} (hle : c.baseTel.toNat ≤ c.baseAck.toNat) : Quiet c (State.resetWith c) :=
  ⟨rfl, rfl, rfl, rfl, rfl, rfl, rfl, hle⟩

/-- A tick that no timer expires at. -/
theorem Quiet.afterTick {c : Cfg} {s : State} (h : Quiet c s) (hcount : 2 ≤ s.tel.count.toNat) :
    Quiet c (tickTimers s) ∧ (tickTimers s).tel.count.toNat + 1 = s.tel.count.toNat := by
  obtain ⟨hcfg, hseq, hemitted, hno, htel, hreq, hwait, horder⟩ := h
  have htick : s.tel.tick .periodic = { s.tel with count := s.tel.count - 1 } := Timer.tick_of_counting .periodic htel hcount
  have hreqTick : s.ackreq.tick .periodic = { s.ackreq with count := s.ackreq.count - 1 } :=
    Timer.tick_of_counting .periodic hreq (by omega)
  have hwaitTick : s.ackwait.tick .oneShot = s.ackwait := Timer.tick_of_idle .oneShot hwait
  have hsub : (s.tel.count - 1).toNat = s.tel.count.toNat - 1 := sub_one_toNat (by omega)
  have hreqSub : (s.ackreq.count - 1).toNat = s.ackreq.count.toNat - 1 := sub_one_toNat (by omega)
  constructor
  · constructor
    case cfg => exact hcfg
    case seq => exact hseq
    case emitted => exact hemitted
    case noFlag => simpa [State.anyFlag, htick, hreqTick, hwaitTick] using hno
    case tel => rw [tickTimers_tel, htick]; exact htel
    case ackreq => rw [tickTimers_ackreq, hreqTick]; exact hreq
    case ackwait => rw [tickTimers_ackwait, hwaitTick]; exact hwait
    case order => simp only [tickTimers_tel, tickTimers_ackreq, htick, hreqTick, hsub, hreqSub]; omega
  · simp only [tickTimers_tel, htick, hsub]
    omega

theorem Quiet.withRes {c : Cfg} {s : State} (h : Quiet c s) (r : Res) : Quiet c (s.withRes r) :=
  ⟨h.cfg, h.seq, h.emitted, h.noFlag, h.tel, h.ackreq, h.ackwait, h.order⟩

theorem stepUnit_of_noFlag {s : State} (h : s.anyFlag = false) : stepUnit s = settle ((tickTimers s).withRes .none) := by
  rw [stepUnit, exec_tick h, andThen_of_next]

/-- One time unit, with nothing to serve after its tick. -/
theorem Quiet.afterUnit {c : Cfg} {s : State} (h : Quiet c s) (hcount : 2 ≤ s.tel.count.toNat) :
    ∃ t, stepUnit s = .next t ∧ Quiet c t ∧ t.tel.count.toNat + 1 = s.tel.count.toNat := by
  obtain ⟨hquiet, hnext⟩ := h.afterTick hcount
  have hquiet := hquiet.withRes .none
  exact ⟨_, (stepUnit_of_noFlag h.noFlag).trans (settleFor_of_noFlag 3 hquiet.noFlag), hquiet, hnext⟩

/-- Fewer time units than the telemetry timer counts leave nothing emitted. -/
theorem Quiet.afterUnits {c : Cfg} (n : Nat) {s : State} (h : Quiet c s) (hn : n < s.tel.count.toNat) :
    ∃ t, runUnits n s = .next t ∧ Quiet c t ∧ t.tel.count.toNat + n = s.tel.count.toNat := by
  induction n generalizing s with
  | zero => exact ⟨s, rfl, h, rfl⟩
  | succ n ih =>
    obtain ⟨u, hstep, hquiet, hu⟩ := h.afterUnit (by omega)
    obtain ⟨t, hrun, ht, hcount⟩ := ih hquiet (by omega)
    exact ⟨t, by rw [runUnits, hstep, andThen_of_next, hrun], ht, by omega⟩

theorem runUnits_succ_last {n : Nat} {s u : State} (h : runUnits n s = .next u) : runUnits (n + 1) s = stepUnit u := by
  induction n generalizing s with
  | zero =>
    obtain rfl := Host.Outcome.next.inj h
    rw [runUnits]
    cases stepUnit s <;> rfl
  | succ n ih =>
    rw [runUnits] at h
    obtain ⟨v, hstep, hrun⟩ := andThen_next.mp h
    rw [runUnits, hstep, andThen_of_next, ih hrun]

/-! ## At the first telemetry time -/

/-- `t` has emitted, first of all, the frame with the sequence number and the identifier of `s`. -/
def SentFirst (s t : State) : Prop :=
  ∃ f : Frame, t.env.emitted.head? = some (.tx f) ∧ f.sequence = s.seq ∧ f.senderIdHi = hiByte s.cfg.senderId ∧
    f.senderIdLo = loByte s.cfg.senderId

/-- With the telemetry flag alone pending, one turn of the loop sends the frame. -/
theorem settleFor_sends (n : Nat) {s : State} (hwait : s.ackwait.flag = false) (hreq : s.ackreq.flag = false)
    (htel : s.tel.flag = true) (hemitted : s.env.emitted = []) :
    ∃ t, settleFor (n + 1) s = .next t ∧ SentFirst s t := by
  have hflag : s.anyFlag = true := by simp [State.anyFlag, htel]
  obtain ⟨t, hservice⟩ : ∃ t, exec .svctel s = .next t := ⟨_, serviceTel_next (s := s.withRes .none).mpr ⟨htel, rfl⟩⟩
  have ht : TelFields (s.withRes .none) t := serviceTel_fields hservice
  have hpoll : exec .poll s = .next t := (exec_poll_of_nextService (nextService_of_tel hwait hreq htel)).trans hservice
  have hdone : t.anyFlag = false := by
    simp [State.anyFlag, ht.ackwait, ht.ackreq, ht.tel, hwait, hreq]
  refine ⟨t, ?_, telemetryFrame s, ?_, rfl, rfl, rfl⟩
  · rw [settleFor_of_anyFlag n hflag, hpoll, andThen_of_next, settleFor_of_noFlag n hdone]
  · simp [ht.emitted, hemitted, telemetryFrame_withRes]

/-- A request served first only marks the frame and arms the wait timer. -/
theorem settle_sends {s : State} (hv : s.cfg.valid = true) (hwait : s.ackwait.flag = false) (htel : s.tel.flag = true)
    (hemitted : s.env.emitted = []) : ∃ t, settle s = .next t ∧ SentFirst s t := by
  cases hreq : s.ackreq.flag with
  | false => exact settleFor_sends 2 hwait hreq htel hemitted
  | true =>
    have hflag : s.anyFlag = true := by simp [State.anyFlag, htel]
    obtain ⟨-, -, hackWait, -⟩ := valid_iff.mp hv
    have hservice := serviceReq_next (s := s.withRes .none).mpr ⟨hreq, hackWait, rfl⟩
    have hpoll := (exec_poll_of_nextService (nextService_of_req hwait hreq)).trans hservice
    obtain ⟨t, ht, hsent⟩ := settleFor_sends 1 (s := ((s.withRes .none).clearFlag .ackreq |>.writeOptions
      (s.readOptions ||| optAckrq)).setTimer .ackwait (s.ackwait.load s.cfg.ackWait)) hwait rfl htel hemitted
    exact ⟨t, (settleFor_of_anyFlag 2 hflag).trans (by rw [hpoll, andThen_of_next]; exact ht), hsent⟩

/-- The telemetry timer's last tick sends the first frame. -/
theorem Quiet.unit_sends {c : Cfg} {s : State} (h : Quiet c s) (hv : c.valid = true) (hone : s.tel.count.toNat = 1) :
    ∃ t, stepUnit s = .next t ∧ SentFirst s t := by
  have hwait : ((tickTimers s).withRes .none).ackwait.flag = false := by
    rw [State.withRes_ackwait, tickTimers_ackwait, Timer.tick_of_idle .oneShot h.ackwait]
    exact State.flag_of_noFlag h.noFlag .ackwait
  have htel : ((tickTimers s).withRes .none).tel.flag = true := by
    rw [State.withRes_tel, tickTimers_tel, Timer.tick_of_expired .periodic h.tel hone]
    rfl
  obtain ⟨t, ht, hsent⟩ := settle_sends (s := (tickTimers s).withRes .none) (h.cfg ▸ hv) hwait htel h.emitted
  exact ⟨t, (stepUnit_of_noFlag h.noFlag).trans ht, hsent⟩

/-- Settles O12: the telemetry timer counts down from `CFG.BASE_TEL`, and the request timer, whose period is a multiple, does not
expire before it. -/
theorem firstFrameLeavesAtTheFirstTelemetryTime : Obligations.FirstFrameLeavesAtTheFirstTelemetryTime := by
  unfold Obligations.FirstFrameLeavesAtTheFirstTelemetryTime
  intro c hv hdvd
  obtain ⟨htel, hack, -, -⟩ := valid_iff.mp hv
  have hquiet : Quiet c (State.resetWith c) := quiet_reset (Nat.le_of_dvd (one_le_toNat hack) hdvd)
  have hcount : (State.resetWith c).tel.count.toNat = c.baseTel.toNat := rfl
  constructor
  · intro n hn
    obtain ⟨t, hrun, ht, -⟩ := hquiet.afterUnits n hn
    exact ⟨t, hrun, ht.emitted⟩
  · have hpos := one_le_toNat htel
    obtain ⟨u, hrun, hu, hleft⟩ := hquiet.afterUnits (c.baseTel.toNat - 1) (by omega)
    obtain ⟨t, ht, f, hhead, hseq, hhi, hlo⟩ := hu.unit_sends hv (by omega)
    have hlast := runUnits_succ_last hrun
    rw [Nat.sub_add_cancel hpos] at hlast
    exact ⟨t, f, hlast.trans ht, hhead, hseq.trans hu.seq, hu.cfg ▸ hhi, hu.cfg ▸ hlo⟩

end Sys2Proof.Machine
end
